-- ==== Sys2Proof/Word.lean ====
section
/-! DEFINITION. The widths of the CHIP-8 core's values (spec/00_scope.md R6, R8, R9). Every value is an unsigned bit
vector whose bit 0 is the least significant. -/

namespace Sys2Proof

/-- A general register, a timer, a memory cell, the immediate `nn`: 8 bits (R6 `REG_W`, `TIMER_W`). -/
abbrev Byte := BitVec 8

/-- The index register, the program counter, a stack slot, an instruction word: 16 bits (R6 `I_W`, `PC_W`). -/
abbrev Word := BitVec 16

/-- A 4-bit field of an instruction word: the register numbers `x` and `y` and the row count `n` (30_encoding.md R93). -/
abbrev Nibble := BitVec 4

/-- The 12-bit immediate `nnn` (30_encoding.md R93). -/
abbrev Addr12 := BitVec 12

/-- A row of 64 framebuffer pixels; the leftmost pixel, column 0, is the most significant bit
(10_state.md R34; DESIGN CHOICE of representation, log 19, safe). -/
abbrev PixelRow := BitVec 64

end Sys2Proof
end

