-- ==== Sys2Proof/Syntax.lean ====
section
/-! DEFINITION. The instructions of the core: one constructor for each row of spec/opcode_table.json and of
30_encoding.md R96, named `i` and the spec's canonical name. An operand has exactly the values its field of the word
can hold (30_encoding.md R92, R93), so that every term is an instruction the encoding admits. -/

namespace Sys2Proof

/-- The 34 instructions (30_encoding.md R96); each docstring gives the row's assembler spelling and its rule. -/
inductive Instr where
  /-- CLS (45_display.md R190). -/
  | i00E0
  /-- RET (41_control_transfer.md R142). -/
  | i00EE
  /-- JP nnn (41_control_transfer.md R140). -/
  | i1nnn (nnn : Addr12)
  /-- CALL nnn (41_control_transfer.md R141). -/
  | i2nnn (nnn : Addr12)
  /-- SE Vx, nn (42_skips.md R151). -/
  | i3xnn (x : Nibble) (nn : Byte)
  /-- SNE Vx, nn (42_skips.md R152). -/
  | i4xnn (x : Nibble) (nn : Byte)
  /-- SE Vx, Vy (42_skips.md R153). -/
  | i5xy0 (x y : Nibble)
  /-- LD Vx, nn (43_immediate_and_random.md R160). -/
  | i6xnn (x : Nibble) (nn : Byte)
  /-- ADD Vx, nn (43_immediate_and_random.md R162). -/
  | i7xnn (x : Nibble) (nn : Byte)
  /-- LD Vx, Vy (44_alu.md R171). -/
  | i8xy0 (x y : Nibble)
  /-- OR Vx, Vy (44_alu.md R173). -/
  | i8xy1 (x y : Nibble)
  /-- AND Vx, Vy (44_alu.md R174). -/
  | i8xy2 (x y : Nibble)
  /-- XOR Vx, Vy (44_alu.md R175). -/
  | i8xy3 (x y : Nibble)
  /-- ADD Vx, Vy (44_alu.md R176). -/
  | i8xy4 (x y : Nibble)
  /-- SUB Vx, Vy (44_alu.md R177). -/
  | i8xy5 (x y : Nibble)
  /-- SHR Vx, Vy (44_alu.md R178). -/
  | i8xy6 (x y : Nibble)
  /-- SUBN Vx, Vy (44_alu.md R179). -/
  | i8xy7 (x y : Nibble)
  /-- SHL Vx, Vy (44_alu.md R180). -/
  | i8xyE (x y : Nibble)
  /-- SNE Vx, Vy (42_skips.md R154). -/
  | i9xy0 (x y : Nibble)
  /-- LD I, nnn (43_immediate_and_random.md R164). -/
  | iAnnn (nnn : Addr12)
  /-- JP V0, nnn (41_control_transfer.md R143). -/
  | iBnnn (nnn : Addr12)
  /-- RND Vx, nn (43_immediate_and_random.md R166). -/
  | iCxnn (x : Nibble) (nn : Byte)
  /-- DRW Vx, Vy, n (45_display.md R192). -/
  | iDxyn (x y n : Nibble)
  /-- SKP Vx (46_keypad.md R201). -/
  | iEx9E (x : Nibble)
  /-- SKNP Vx (46_keypad.md R202). -/
  | iExA1 (x : Nibble)
  /-- LD Vx, DT (47_timers.md R210). -/
  | iFx07 (x : Nibble)
  /-- LD Vx, K (46_keypad.md R203). -/
  | iFx0A (x : Nibble)
  /-- LD DT, Vx (47_timers.md R211). -/
  | iFx15 (x : Nibble)
  /-- LD ST, Vx (47_timers.md R212). -/
  | iFx18 (x : Nibble)
  /-- ADD I, Vx (48_index_and_memory.md R220). -/
  | iFx1E (x : Nibble)
  /-- LD F, Vx (48_index_and_memory.md R222). -/
  | iFx29 (x : Nibble)
  /-- LD B, Vx (48_index_and_memory.md R224). -/
  | iFx33 (x : Nibble)
  /-- LD [I], Vx (48_index_and_memory.md R226). -/
  | iFx55 (x : Nibble)
  /-- LD Vx, [I] (48_index_and_memory.md R228). -/
  | iFx65 (x : Nibble)
deriving DecidableEq, Repr

end Sys2Proof
end

