-- ==== Sys2Proof/WellFormed.lean ====
section
/-! DEFINITION. Well-formedness. The operands of `Instr` have exactly the values their fields can hold, so there is no
ill-formed term of `Instr`; what can be ill-formed is an instruction WORD. The check is the opcode table of
30_encoding.md R96: a word is an instruction exactly when `op AND mask = match` for one row. The table stands here on its
own, independent of the decoder, which follows the procedure of R94. -/

namespace Sys2Proof

/-- One row of 30_encoding.md R96: the columns name, match and mask. -/
structure Row where
  name : String
  mask : Word
  value : Word
deriving DecidableEq, Repr

/-- The row of R96 that an instruction belongs to. -/
def Instr.row : Instr → Row
  | .i00E0 => ⟨"00E0", 0xFFFF, 0x00E0⟩
  | .i00EE => ⟨"00EE", 0xFFFF, 0x00EE⟩
  | .i1nnn _ => ⟨"1nnn", 0xF000, 0x1000⟩
  | .i2nnn _ => ⟨"2nnn", 0xF000, 0x2000⟩
  | .i3xnn _ _ => ⟨"3xnn", 0xF000, 0x3000⟩
  | .i4xnn _ _ => ⟨"4xnn", 0xF000, 0x4000⟩
  | .i5xy0 _ _ => ⟨"5xy0", 0xF00F, 0x5000⟩
  | .i6xnn _ _ => ⟨"6xnn", 0xF000, 0x6000⟩
  | .i7xnn _ _ => ⟨"7xnn", 0xF000, 0x7000⟩
  | .i8xy0 _ _ => ⟨"8xy0", 0xF00F, 0x8000⟩
  | .i8xy1 _ _ => ⟨"8xy1", 0xF00F, 0x8001⟩
  | .i8xy2 _ _ => ⟨"8xy2", 0xF00F, 0x8002⟩
  | .i8xy3 _ _ => ⟨"8xy3", 0xF00F, 0x8003⟩
  | .i8xy4 _ _ => ⟨"8xy4", 0xF00F, 0x8004⟩
  | .i8xy5 _ _ => ⟨"8xy5", 0xF00F, 0x8005⟩
  | .i8xy6 _ _ => ⟨"8xy6", 0xF00F, 0x8006⟩
  | .i8xy7 _ _ => ⟨"8xy7", 0xF00F, 0x8007⟩
  | .i8xyE _ _ => ⟨"8xyE", 0xF00F, 0x800E⟩
  | .i9xy0 _ _ => ⟨"9xy0", 0xF00F, 0x9000⟩
  | .iAnnn _ => ⟨"Annn", 0xF000, 0xA000⟩
  | .iBnnn _ => ⟨"Bnnn", 0xF000, 0xB000⟩
  | .iCxnn _ _ => ⟨"Cxnn", 0xF000, 0xC000⟩
  | .iDxyn _ _ _ => ⟨"Dxyn", 0xF000, 0xD000⟩
  | .iEx9E _ => ⟨"Ex9E", 0xF0FF, 0xE09E⟩
  | .iExA1 _ => ⟨"ExA1", 0xF0FF, 0xE0A1⟩
  | .iFx07 _ => ⟨"Fx07", 0xF0FF, 0xF007⟩
  | .iFx0A _ => ⟨"Fx0A", 0xF0FF, 0xF00A⟩
  | .iFx15 _ => ⟨"Fx15", 0xF0FF, 0xF015⟩
  | .iFx18 _ => ⟨"Fx18", 0xF0FF, 0xF018⟩
  | .iFx1E _ => ⟨"Fx1E", 0xF0FF, 0xF01E⟩
  | .iFx29 _ => ⟨"Fx29", 0xF0FF, 0xF029⟩
  | .iFx33 _ => ⟨"Fx33", 0xF0FF, 0xF033⟩
  | .iFx55 _ => ⟨"Fx55", 0xF0FF, 0xF055⟩
  | .iFx65 _ => ⟨"Fx65", 0xF0FF, 0xF065⟩

/-- The 34 rows of R96, in its order. -/
def rows : List Row := [
  (Instr.i00E0).row, (Instr.i00EE).row, (Instr.i1nnn 0).row, (Instr.i2nnn 0).row,
  (Instr.i3xnn 0 0).row, (Instr.i4xnn 0 0).row, (Instr.i5xy0 0 0).row, (Instr.i6xnn 0 0).row,
  (Instr.i7xnn 0 0).row, (Instr.i8xy0 0 0).row, (Instr.i8xy1 0 0).row, (Instr.i8xy2 0 0).row,
  (Instr.i8xy3 0 0).row, (Instr.i8xy4 0 0).row, (Instr.i8xy5 0 0).row, (Instr.i8xy6 0 0).row,
  (Instr.i8xy7 0 0).row, (Instr.i8xyE 0 0).row, (Instr.i9xy0 0 0).row, (Instr.iAnnn 0).row,
  (Instr.iBnnn 0).row, (Instr.iCxnn 0 0).row, (Instr.iDxyn 0 0 0).row, (Instr.iEx9E 0).row,
  (Instr.iExA1 0).row, (Instr.iFx07 0).row, (Instr.iFx0A 0).row, (Instr.iFx15 0).row,
  (Instr.iFx18 0).row, (Instr.iFx1E 0).row, (Instr.iFx29 0).row, (Instr.iFx33 0).row,
  (Instr.iFx55 0).row, (Instr.iFx65 0).row]

/-- `op AND mask = match` (R96). -/
def Row.matches (r : Row) (op : Word) : Bool := op &&& r.mask == r.value

/-- A word is well formed when it is the instruction of some row (R96); every other word is unrecognised (R100). -/
def wellFormedWord (op : Word) : Bool := rows.any fun r => r.matches op

end Sys2Proof
end

