-- ==== Sys2Proof/Decode.lean ====
section
/-! DEFINITION. The decoder and the encoder (spec/30_encoding.md). `decode` is the procedure of R94, total on the 65536
words; `decodeBytes` decodes any list of bytes, high byte first (20_memory.md R62), and rejects by name; `encode` writes
the word of an instruction from the formats of R91. -/

namespace Sys2Proof

/-! ### Fields of a word (30_encoding.md R92) -/

/-- The top nibble `op[15:12]`, the primary opcode (R91). -/
def opTop (op : Word) : Nibble := op.extractLsb' 12 4

/-- `x = op[11:8]`. -/
def opX (op : Word) : Nibble := op.extractLsb' 8 4

/-- `y = op[7:4]`. -/
def opY (op : Word) : Nibble := op.extractLsb' 4 4

/-- `n = op[3:0]`. -/
def opN (op : Word) : Nibble := op.extractLsb' 0 4

/-- `nn = op[7:0]`. -/
def opNN (op : Word) : Byte := op.extractLsb' 0 8

/-- `nnn = op[11:0]`. -/
def opNNN (op : Word) : Addr12 := op.extractLsb' 0 12

/-! ### Decode (30_encoding.md R94) -/

/-- The family of top nibble 0: the whole word is matched. -/
def decode0 (op : Word) : Option Instr :=
  if op = 0x00E0 then some .i00E0
  else if op = 0x00EE then some .i00EE
  else none

/-- The register-register family 8: dispatch on the low nibble; 8 to D and F select nothing (R97, R181; log 17). -/
def decode8 (op : Word) : Option Instr :=
  match (opN op).toNat with
  | 0x0 => some (.i8xy0 (opX op) (opY op))
  | 0x1 => some (.i8xy1 (opX op) (opY op))
  | 0x2 => some (.i8xy2 (opX op) (opY op))
  | 0x3 => some (.i8xy3 (opX op) (opY op))
  | 0x4 => some (.i8xy4 (opX op) (opY op))
  | 0x5 => some (.i8xy5 (opX op) (opY op))
  | 0x6 => some (.i8xy6 (opX op) (opY op))
  | 0x7 => some (.i8xy7 (opX op) (opY op))
  | 0xE => some (.i8xyE (opX op) (opY op))
  | _ => none

/-- The keypad family E: dispatch on the low byte. -/
def decodeE (op : Word) : Option Instr :=
  match (opNN op).toNat with
  | 0x9E => some (.iEx9E (opX op))
  | 0xA1 => some (.iExA1 (opX op))
  | _ => none

/-- The family F: dispatch on the low byte (the timer words: R98, log 17). -/
def decodeF (op : Word) : Option Instr :=
  match (opNN op).toNat with
  | 0x07 => some (.iFx07 (opX op))
  | 0x0A => some (.iFx0A (opX op))
  | 0x15 => some (.iFx15 (opX op))
  | 0x18 => some (.iFx18 (opX op))
  | 0x1E => some (.iFx1E (opX op))
  | 0x29 => some (.iFx29 (opX op))
  | 0x33 => some (.iFx33 (opX op))
  | 0x55 => some (.iFx55 (opX op))
  | 0x65 => some (.iFx65 (opX op))
  | _ => none

/-- `Decode(op)`; `none` is the spec's outcome `Unrecognised` (R94, R95). -/
def decode (op : Word) : Option Instr :=
  match (opTop op).toNat with
  | 0x0 => decode0 op
  | 0x1 => some (.i1nnn (opNNN op))
  | 0x2 => some (.i2nnn (opNNN op))
  | 0x3 => some (.i3xnn (opX op) (opNN op))
  | 0x4 => some (.i4xnn (opX op) (opNN op))
  | 0x5 => if opN op = 0 then some (.i5xy0 (opX op) (opY op)) else none
  | 0x6 => some (.i6xnn (opX op) (opNN op))
  | 0x7 => some (.i7xnn (opX op) (opNN op))
  | 0x8 => decode8 op
  | 0x9 => if opN op = 0 then some (.i9xy0 (opX op) (opY op)) else none
  | 0xA => some (.iAnnn (opNNN op))
  | 0xB => some (.iBnnn (opNNN op))
  | 0xC => some (.iCxnn (opX op) (opNN op))
  | 0xD => some (.iDxyn (opX op) (opY op) (opN op))
  | 0xE => decodeE op
  | _ => decodeF op

/-- What decoding a list of bytes answers. -/
inductive Decoded where
  /-- An instruction, and the bytes after it. -/
  | instr (i : Instr) (rest : List Byte)
  /-- The word `op` is unrecognised (R99); the bytes after it. -/
  | unrecognised (op : Word) (rest : List Byte)
  /-- Fewer than the two bytes of an instruction (R90). -/
  | truncated
deriving DecidableEq, Repr

/-- The word of two bytes, the byte at the lower address high (20_memory.md R62). -/
def wordOf (hi lo : Byte) : Word := hi ++ lo

/-- Decoding of a list of bytes, lowest address first (R90: every instruction is two bytes). -/
def decodeBytes : List Byte → Decoded
  | hi :: lo :: rest =>
    match decode (wordOf hi lo) with
    | some i => .instr i rest
    | none => .unrecognised (wordOf hi lo) rest
  | _ => .truncated

/-! ### Encode (30_encoding.md R91, R96) -/

/-- The word of an instruction, field by field as the formats of R91 lay it out. -/
def encode : Instr → Word
  | .i00E0 => 0x0#4 ++ 0x0#4 ++ 0xE#4 ++ 0x0#4
  | .i00EE => 0x0#4 ++ 0x0#4 ++ 0xE#4 ++ 0xE#4
  | .i1nnn nnn => 0x1#4 ++ nnn
  | .i2nnn nnn => 0x2#4 ++ nnn
  | .i3xnn x nn => 0x3#4 ++ x ++ nn
  | .i4xnn x nn => 0x4#4 ++ x ++ nn
  | .i5xy0 x y => 0x5#4 ++ x ++ y ++ 0x0#4
  | .i6xnn x nn => 0x6#4 ++ x ++ nn
  | .i7xnn x nn => 0x7#4 ++ x ++ nn
  | .i8xy0 x y => 0x8#4 ++ x ++ y ++ 0x0#4
  | .i8xy1 x y => 0x8#4 ++ x ++ y ++ 0x1#4
  | .i8xy2 x y => 0x8#4 ++ x ++ y ++ 0x2#4
  | .i8xy3 x y => 0x8#4 ++ x ++ y ++ 0x3#4
  | .i8xy4 x y => 0x8#4 ++ x ++ y ++ 0x4#4
  | .i8xy5 x y => 0x8#4 ++ x ++ y ++ 0x5#4
  | .i8xy6 x y => 0x8#4 ++ x ++ y ++ 0x6#4
  | .i8xy7 x y => 0x8#4 ++ x ++ y ++ 0x7#4
  | .i8xyE x y => 0x8#4 ++ x ++ y ++ 0xE#4
  | .i9xy0 x y => 0x9#4 ++ x ++ y ++ 0x0#4
  | .iAnnn nnn => 0xA#4 ++ nnn
  | .iBnnn nnn => 0xB#4 ++ nnn
  | .iCxnn x nn => 0xC#4 ++ x ++ nn
  | .iDxyn x y n => 0xD#4 ++ x ++ y ++ n
  | .iEx9E x => 0xE#4 ++ x ++ 0x9E#8
  | .iExA1 x => 0xE#4 ++ x ++ 0xA1#8
  | .iFx07 x => 0xF#4 ++ x ++ 0x07#8
  | .iFx0A x => 0xF#4 ++ x ++ 0x0A#8
  | .iFx15 x => 0xF#4 ++ x ++ 0x15#8
  | .iFx18 x => 0xF#4 ++ x ++ 0x18#8
  | .iFx1E x => 0xF#4 ++ x ++ 0x1E#8
  | .iFx29 x => 0xF#4 ++ x ++ 0x29#8
  | .iFx33 x => 0xF#4 ++ x ++ 0x33#8
  | .iFx55 x => 0xF#4 ++ x ++ 0x55#8
  | .iFx65 x => 0xF#4 ++ x ++ 0x65#8

/-- The high byte of a word, stored at the lower address (20_memory.md R62). -/
def highByte (op : Word) : Byte := op.extractLsb' 8 8

/-- The low byte of a word, stored at the higher address. -/
def lowByte (op : Word) : Byte := op.extractLsb' 0 8

/-- The two bytes of an instruction as memory holds them. -/
def encodeBytes (i : Instr) : List Byte := [highByte (encode i), lowByte (encode i)]

/-! ### The opcode table's numbering of bits -/

/-- The word a table row's bits stand for: a row's bits fill one 16-bit word, bit 0 the least significant
(30_encoding.md R90; 00_scope.md R9), and the bits at and above `nbits` are 0. -/
def tableWord (nbits w : Nat) : Word := BitVec.ofNat 16 (w % 2 ^ nbits)

/-- The instruction the decoder reads from a row's bits laid out as the hardware stores them, high byte first. -/
def decodeTableWord (nbits w : Nat) : Option Instr :=
  match decodeBytes [highByte (tableWord nbits w), lowByte (tableWord nbits w)] with
  | .instr i _ => some i
  | _ => none

end Sys2Proof
end

