-- ==== Sys2Proof/Config.lean ====
section
/-! DEFINITION. What the spec leaves to an implementation: the fixed parameters of spec/00_scope.md R6, the open
parameters of R7, and the free values. The open parameters form the record `Config`, which a state carries in a field
that no operation writes, so that a claim over all states holds for every setting (log 9). -/

namespace Sys2Proof

/-- Bytes of memory, addresses 0 to 4095 (00_scope.md R6). -/
abbrev memSize : Nat := 4096

/-- Load address of a program and reset value of `pc` (00_scope.md R6 `PROG_BASE`). -/
abbrev progBase : Nat := 0x200

/-- The largest program `LoadProgram` accepts (00_scope.md R6 `PROG_MAX`). -/
abbrev progMax : Nat := 3584

/-- Address of the first font byte (00_scope.md R6 `FONT_BASE`). -/
abbrev fontBase : Nat := 0x50

/-- Bytes of font (00_scope.md R6 `FONT_LEN`). -/
abbrev fontLen : Nat := 80

/-- The return-address slots (00_scope.md R6 `STACK_DEPTH`). -/
abbrev stackDepth : Nat := 16

/-- The parameter `FONT`: 16 glyphs of 5 bytes, the top row of a glyph first (10_state.md R33). -/
abbrev Font := Vector (Vector Byte 5) 16

/-- Which key Fx0A reports when several are pressed, the parameter `KEY_SELECT` (46_keypad.md R203). `lowest` is the
default of 00_scope.md R7; `other n` stands for any further choice, the function `Config.freeKeySelect n`. -/
inductive KeySelect where
  | lowest
  | highest
  | other (n : Nat)
deriving DecidableEq, Repr

/-- The open parameters of 00_scope.md R7 that a rule depends on (`rnd` is an input, `STEP_LATENCY` is read by no rule). -/
structure Config where
  /-- `FONT`, loaded at `FONT_BASE` by `Reset`. -/
  font : Font
  /-- `SHIFT_USES_VY`: whether 8xy6 and 8xyE shift Vy (true) or Vx (false). -/
  shiftUsesVy : Bool
  /-- `SNE_SWAPPED`: whether 4xnn skips on equal (true) or on not-equal (false). -/
  sneSwapped : Bool
  /-- `KEY_SELECT`. -/
  keySelect : KeySelect
deriving DecidableEq, Repr

namespace Config

/-- The default font of 10_state.md R33, which the spec supplies from general knowledge (PRESUMED, log 1, unsafe). -/
def defaultFont : Font := #v[
  #v[0xF0, 0x90, 0x90, 0x90, 0xF0],
  #v[0x20, 0x60, 0x20, 0x20, 0x70],
  #v[0xF0, 0x10, 0xF0, 0x80, 0xF0],
  #v[0xF0, 0x10, 0xF0, 0x10, 0xF0],
  #v[0x90, 0x90, 0xF0, 0x10, 0x10],
  #v[0xF0, 0x80, 0xF0, 0x10, 0xF0],
  #v[0xF0, 0x80, 0xF0, 0x90, 0xF0],
  #v[0xF0, 0x10, 0x20, 0x40, 0x40],
  #v[0xF0, 0x90, 0xF0, 0x90, 0xF0],
  #v[0xF0, 0x90, 0xF0, 0x10, 0xF0],
  #v[0xF0, 0x90, 0xF0, 0x90, 0x90],
  #v[0xE0, 0x90, 0xE0, 0x90, 0xE0],
  #v[0xF0, 0x80, 0x80, 0x80, 0xF0],
  #v[0xE0, 0x90, 0x90, 0x90, 0xE0],
  #v[0xF0, 0x80, 0xF0, 0x80, 0xF0],
  #v[0xF0, 0x80, 0xF0, 0x80, 0x80]]

/-- The parameters at the defaults of 00_scope.md R7 (log 1 to 4). -/
def default : Config :=
  { font := defaultFont, shiftUsesVy := false, sneSwapped := false, keySelect := .lowest }

/-- The free random bytes: what the input `rnd` of a `Step` holds where the host has put no byte there. No law is
assumed of it (43_immediate_and_random.md R166; log 5). -/
opaque rnd : Nat → Byte

/-- The choices `KeySelect.other n`: arbitrary functions from the 16 key states to a key index; where such a function
names a key that is not pressed, the lowest pressed key is taken instead (46_keypad.md R203; log 4). -/
opaque freeKeySelect : Nat → Vector Bool 16 → Fin 16

end Config

end Sys2Proof
end

