-- ==== Sys2Proof/Machine/State.lean ====
section
/-! DEFINITION. The state of the core (spec/10_state.md R20), the result of a step (40_step_cycle.md R121), and the state
after reset (10_state.md R41). -/

namespace Sys2Proof.Machine

/-- The fault causes of 60_exceptions.md R241, values of the register `CAUSE`. The codes 6 and 7 are never produced and
have no constructor (93_implementation_defined.md U15; log 18). -/
inductive Cause where
  /-- Code 0: no fault. -/
  | none
  /-- Code 1, `FETCH_OOB`: the fetch of a step. -/
  | fetchOob
  /-- Code 2, `DATA_OOB`: Dxyn with n > 0, Fx33, Fx55, Fx65. -/
  | dataOob
  /-- Code 3, `STACK_OVERFLOW`: 2nnn. -/
  | stackOverflow
  /-- Code 4, `STACK_UNDERFLOW`: 00EE. -/
  | stackUnderflow
  /-- Code 5, `KEY_OOB`: Ex9E, ExA1. -/
  | keyOob
deriving DecidableEq, Repr

/-- What a `Step` returns (40_step_cycle.md R121). -/
inductive StepResult where
  /-- One of the 34 instructions completed. -/
  | ok
  /-- The word `op` fetched from `addr` is unrecognised. -/
  | decodeError (op addr : Word)
  /-- The instruction is Fx0A and no key is pressed. -/
  | blocked
  /-- A fatal error, or the core was already halted. -/
  | fault (cause : Cause) (info : Word)
deriving DecidableEq, Repr

/-- The reasons for which the machine has no next state. There are none: `Step` is total (40_step_cycle.md R129), and a
fault of the spec is an entry that ends in a next state, with the fault registers written (60_exceptions.md R243; log 7,
safe). -/
inductive Fault where
deriving DecidableEq, Repr

/-- The reasons for which an instruction has no meaning. -/
inductive Refusal where
  /-- Raised by an arm of `exec` whose instruction has not been modelled; no arm raises it (safe). -/
  | notModelled (mnemonic : String)
deriving DecidableEq, Repr

/-- Memory: the cells that differ from the reset contents, by strictly rising address (20_memory.md R60; log 8). -/
abbrev Memory := List Host.Cell

/-- The state. The first fifteen fields are 10_state.md R20, row by row; the last four are the model's own
(10_state.md R40: inputs, parameters and the result of a transition are not state of the spec). -/
structure State where
  /-- `Mem`, 4096 bytes (R31). -/
  mem : Memory
  /-- `V`, the registers V0 to VF (R21). -/
  V : Vector Byte 16
  /-- `I`, the index register (R26). -/
  I : Word
  /-- `pc`, the program counter (R27). -/
  pc : Word
  /-- `Stack`, 16 slots (R29). -/
  stack : Vector Word 16
  /-- `sp`, the frames in use, 0 to 16 (R30). -/
  sp : Fin 17
  /-- `FB`, 32 rows of 64 pixels (R34). -/
  fb : Vector PixelRow 32
  /-- `Key`, 16 key states, true = pressed (R35). -/
  key : Vector Bool 16
  /-- `DT`, the delay timer (R36). -/
  dt : Byte
  /-- `ST`, the sound timer (R36). -/
  st : Byte
  /-- `REDRAW`, the redraw flag (R37). -/
  redraw : Bool
  /-- `FAULT`: true = the core is halted (R38). -/
  fault : Bool
  /-- `CAUSE` (R38). -/
  cause : Cause
  /-- `EPC`, the `pc` of the faulting instruction (R38). -/
  epc : Word
  /-- `EINFO`, the fault information (R38). -/
  einfo : Word
  /-- The open parameters (00_scope.md R7), never written (log 9). -/
  cfg : Config
  /-- The byte the host has put on the input `rnd` for the coming `Step`; `none`: the byte is free (log 5). -/
  rndIn : Option Byte
  /-- How many bytes Cxnn has drawn; the index of the next free byte (log 5). -/
  draws : Nat
  /-- The outputs `result`, `diag_op`, `diag_pc` of 60_exceptions.md R257: the result of the last `Step`, `none` before
  the first one (log 6). -/
  result : Option StepResult
deriving DecidableEq, Repr

/-- The state after `Reset` on a core with the parameters `cfg` (10_state.md R41, 70_reset_and_hazards.md R280): no cell
of memory differs from the reset contents, `pc = 0x200`, everything else 0. -/
def State.resetWith (cfg : Config) : State where
  mem := []
  V := Vector.replicate 16 0
  I := 0
  pc := 0x200
  stack := Vector.replicate 16 0
  sp := 0
  fb := Vector.replicate 32 0
  key := Vector.replicate 16 false
  dt := 0
  st := 0
  redraw := false
  fault := false
  cause := .none
  epc := 0
  einfo := 0
  cfg := cfg
  rndIn := none
  draws := 0
  result := none

/-- The machine right after reset, with the default parameters of 00_scope.md R7. -/
def State.reset : State := State.resetWith Config.default

end Sys2Proof.Machine
end

