-- ==== Sys2Proof/Machine/Ops.lean ====
section
/-! DEFINITION. The named operations over the state: registers, memory, stack, screen, timers; how an instruction ends
(completes, blocks, takes a fault); the pieces of the step cycle of spec/40_step_cycle.md. -/

namespace Sys2Proof.Machine

/-- What an instruction and a step answer. -/
abbrev Answer := Host.Outcome State Fault Refusal

/-! ### Registers (10_state.md R21) -/

/-- `V[x]`: every register reads back what was last written; none is hardwired. -/
def State.reg (s : State) (x : Nibble) : Byte := s.V[x.toNat]'x.isLt

/-- `V[x] <- v`. -/
def State.setReg (s : State) (x : Nibble) (v : Byte) : State := { s with V := s.V.set x.toNat v x.isLt }

/-- `V[k] <- bs[k]` for every byte of the list; the registers above keep their values. -/
def State.setRegs (s : State) (bs : List Byte) : State :=
  { s with V := Vector.ofFn fun k => (bs[k.val]?).getD s.V[k] }

/-- `I <- v` (10_state.md R26). -/
def State.setIndex (s : State) (v : Word) : State := { s with I := v }

/-- `pc <- v` (10_state.md R27); the width of `Word` keeps `v mod 65536` (00_scope.md R12). -/
def State.setPc (s : State) (v : Word) : State := { s with pc := v }

/-! ### Memory (20_memory.md) -/

/-- Byte k of the parameter `FONT` (10_state.md R33). -/
def fontByte (cfg : Config) (k : Fin 80) : Byte := (cfg.font[k.val / 5])[k.val % 5]

/-- What an address that no cell lists reads as: the contents after `Reset`, the font at 0x50 to 0x9F and 0 elsewhere
(20_memory.md R60; 10_state.md R41). -/
def Memory.unlisted (cfg : Config) (a : Nat) : Byte :=
  if h : 0x50 ≤ a ∧ a < 0xA0 then fontByte cfg ⟨a - 0x50, by omega⟩ else 0

/-- The value a memory lists at an address, if it lists one. -/
def Memory.find : Memory → Nat → Option Byte
  | [], _ => none
  | c :: m, a => if c.1 = a then some c.2 else Memory.find m a

/-- `Mem[a]`. -/
def Memory.read (cfg : Config) (m : Memory) (a : Nat) : Byte := (Memory.find m a).getD (Memory.unlisted cfg a)

/-- A cell in front of a memory, left out where it says what an unlisted address reads as. -/
def Memory.cons (cfg : Config) (a : Nat) (v : Byte) (m : Memory) : Memory :=
  if v = Memory.unlisted cfg a then m else (a, v) :: m

/-- `Mem[a] <- v`, in canonical form: the cells stay in rising order, and writing what an unlisted address reads as
removes the cell. -/
def Memory.write (cfg : Config) : Memory → Nat → Byte → Memory
  | [], a, v => Memory.cons cfg a v []
  | c :: m, a, v =>
    if a < c.1 then Memory.cons cfg a v (c :: m)
    else if a = c.1 then Memory.cons cfg a v m
    else c :: Memory.write cfg m a v

/-- The canonical form: addresses below 4096 and strictly rising, no cell equal to what an unlisted address reads as. -/
def Memory.wf (cfg : Config) : Memory → Bool
  | [] => true
  | c :: m => decide (c.1 < memSize) && c.2 != Memory.unlisted cfg c.1 && m.all (fun d => decide (c.1 < d.1)) && Memory.wf cfg m

/-- `Mem[a]`, with no check (00_scope.md R11). -/
def State.byte (s : State) (a : Nat) : Byte := Memory.read s.cfg s.mem a

/-- `Mem[a] <- v`, with no check: exactly that byte changes (20_memory.md R65). -/
def State.setByte (s : State) (a : Nat) (v : Byte) : State := { s with mem := Memory.write s.cfg s.mem a v }

/-- The n bytes from address a on, the lowest address first. -/
def State.bytes (s : State) (a n : Nat) : List Byte := (List.range n).map fun k => s.byte (a + k)

/-- The bytes of a list written from address a on, the first at the lowest address. -/
def State.setBytes (s : State) (a : Nat) : List Byte → State
  | [] => s
  | b :: bs => State.setBytes (s.setByte a b) (a + 1) bs

/-- The bounds check of an access to the n bytes from `addr` on, on unbounded naturals: the highest address
`addr + n - 1` must not exceed 4095, and an access to no byte cannot fail (20_memory.md R64 to R66;
48_index_and_memory.md R229). -/
def inBounds (addr n : Nat) : Bool := n == 0 || decide (addr + n - 1 ≤ 4095)

/-- The checked read `MemRead(addr, n)`; `none`: out of bounds (20_memory.md R64). -/
def State.memRead (s : State) (addr n : Nat) : Option (List Byte) :=
  if inBounds addr n then some (s.bytes addr n) else none

/-- The checked write of a list of bytes, `MemWrite` of each one after the range has been checked as a whole; `none`:
out of bounds (20_memory.md R65, R66). -/
def State.memWrite (s : State) (addr : Nat) (bs : List Byte) : Option State :=
  if inBounds addr bs.length then some (s.setBytes addr bs) else none

/-- `MemRead(pc, 2)`, the fetch: two bytes, the one at the lower address high (20_memory.md R62; 40_step_cycle.md R123). -/
def State.fetch (s : State) : Option Word :=
  match s.memRead s.pc.toNat 2 with
  | some [hi, lo] => some (wordOf hi lo)
  | _ => none

/-! ### Stack (10_state.md R29, R30) -/

/-- `Stack[sp] <- a; sp <- sp + 1`; `none`: all 16 slots are in use (41_control_transfer.md R141). -/
def State.push (s : State) (a : Word) : Option State :=
  if h : s.sp.val < 16 then
    some { s with stack := s.stack.set s.sp.val a h, sp := ⟨s.sp.val + 1, by omega⟩ }
  else none

/-- `sp <- sp - 1`, and `Stack[sp]` read after the decrement; the slot is not cleared; `none`: the stack is empty
(41_control_transfer.md R142). -/
def State.pop (s : State) : Option (Word × State) :=
  if h : s.sp.val = 0 then none
  else some (s.stack[s.sp.val - 1], { s with sp := ⟨s.sp.val - 1, by omega⟩ })

/-! ### Screen, keypad, timers (10_state.md R34 to R37) -/

/-- `FB[r][c]`: row r from the top, column c from the left, the leftmost the most significant bit of the row. -/
def State.pixel (s : State) (r : Fin 32) (c : Fin 64) : Bool := s.fb[r].getMsbD c.val

/-- A new frame, with `REDRAW <- 1` (R37: set by every completed 00E0 and Dxyn). -/
def State.setScreen (s : State) (fb : Vector PixelRow 32) : State := { s with fb := fb, redraw := true }

/-- `REDRAW <- b`. -/
def State.setRedraw (s : State) (b : Bool) : State := { s with redraw := b }

/-- `Key[k] <- b`. -/
def State.setKeyState (s : State) (k : Fin 16) (b : Bool) : State := { s with key := s.key.set k.val b k.isLt }

/-- `DT <- v`. -/
def State.setDelay (s : State) (v : Byte) : State := { s with dt := v }

/-- `ST <- v`. -/
def State.setSound (s : State) (v : Byte) : State := { s with st := v }

/-- One decrement with floor at 0 (47_timers.md R213). -/
def tickDown (t : Byte) : Byte := if t = 0 then 0 else t - 1

/-- `Tick()` (47_timers.md R214). -/
def State.tick (s : State) : State := (s.setDelay (tickDown s.dt)).setSound (tickDown s.st)

/-! ### The random byte (43_immediate_and_random.md R166) -/

/-- The input `rnd` of this step: the host's byte, or a free one (log 5). -/
def State.rnd (s : State) : Byte := s.rndIn.getD (Config.rnd s.draws)

/-- One draw: the next free byte is another one. -/
def State.countDraw (s : State) : State := { s with draws := s.draws + 1 }

/-- The host's byte on the input `rnd`, or none. -/
def State.setRndIn (s : State) (r : Option Byte) : State := { s with rndIn := r }

/-! ### How an instruction ends (40_step_cycle.md R126) -/

/-- The result of a step, on the output ports (60_exceptions.md R257; log 6). -/
def State.setResult (s : State) (r : StepResult) : State := { s with result := some r }

/-- The instruction has completed. -/
def State.complete (s : State) : Answer := .next (s.setResult .ok)

/-- Completes with `pc <- target`. -/
def State.jump (s : State) (target : Word) : Answer := (s.setPc target).complete

/-- Completes with `pc <- pc + 2`. -/
def State.advance (s : State) : Answer := s.jump (s.pc + 2)

/-- Completes with `pc <- pc + 4` when the condition holds, else `pc <- pc + 2` (42_skips.md R150). -/
def State.skipIf (s : State) (cond : Bool) : Answer := if cond then s.jump (s.pc + 4) else s.advance

/-- Ends with the result `Blocked` and no state change (40_step_cycle.md R127). -/
def State.block (s : State) : Answer := .next (s.setResult .blocked)

/-- The fault registers (10_state.md R38). -/
def State.latch (s : State) (cause : Cause) (info : Word) : State :=
  { s with fault := true, cause := cause, epc := s.pc, einfo := info }

/-- `raise Fault(cause, info)`: `FAULT`, `CAUSE`, `EPC` and `EINFO` are written and nothing else; the core is halted
(60_exceptions.md R243, R244). -/
def State.raise (s : State) (cause : Cause) (info : Word) : Answer :=
  .next ((s.latch cause info).setResult (.fault cause info))

/-- `Reset` (70_reset_and_hazards.md R280), the only way out of the halted state: the spec has no return from a fault
(60_exceptions.md R250). The parameters stay, and so does the count of the bytes drawn: the random source is outside the
core (10_state.md R40). -/
def State.hostReset (s : State) : State := { State.resetWith s.cfg with draws := s.draws }

/-! ### The step cycle (40_step_cycle.md R120) -/

/-- The end of a step after the instruction: the tick follows a completed instruction only (R128), and the byte on `rnd`
has been sampled. -/
def State.afterExec (s : State) : State :=
  (if s.result = some .ok then s.tick else s).setRndIn none

/-- A step's answer from the instruction's. -/
def endStep : Answer → Answer
  | .next s => .next s.afterExec
  | .fault r => .fault r
  | .refused r => .refused r

/-- The fetch fails: `Fault(FETCH_OOB, pc)` (R123). -/
def State.fetchFault (s : State) : Answer := endStep (s.raise .fetchOob s.pc)

/-- An unrecognised word: `pc <- pc + 2`, the tick, the result `DecodeError(op, at)` (R125). -/
def State.unrecognisedWord (s : State) (op : Word) : Answer :=
  .next ((((s.setPc (s.pc + 2)).tick).setResult (.decodeError op s.pc)).setRndIn none)

/-- A step of a halted core: no change, and the latched fault again (R122). -/
def State.haltedStep (s : State) : Answer :=
  .next ((s.setResult (.fault s.cause s.einfo)).setRndIn none)

/-! ### Placing an instruction where the next step fetches it (log 10) -/

/-- The halt latch cleared, where it is set. -/
def State.unhalt (s : State) : State :=
  if s.fault then { s with fault := false, cause := .none, epc := 0, einfo := 0 } else s

/-- A `pc` the fetch can read: where it cannot, the entry point 0x200. -/
def State.fetchable (s : State) : State := if s.pc.toNat + 1 ≤ 4095 then s else s.setPc 0x200

/-- The word `op` in the two bytes the next fetch reads. -/
def State.placeWord (s : State) (op : Word) : State :=
  let t := s.unhalt.fetchable
  t.setBytes t.pc.toNat [highByte op, lowByte op]

end Sys2Proof.Machine
end

