-- ==== Sys2Proof/Machine/Operands.lean ====
section
/-! DEFINITION. The operand forms of the instruction rules: immediates and registers widened with zeros, the source of a
shift, the key number and the choice of a key, the sprite's start and its rows, the decimal digits, the block of
registers, the address `I`. -/

namespace Sys2Proof.Machine

/-- `zext_16(nnn)` (30_encoding.md R93). -/
def zextAddr (nnn : Addr12) : Word := nnn.setWidth 16

/-- `zext_16(v)` of a byte (00_scope.md R11). -/
def zextByte (v : Byte) : Word := v.setWidth 16

/-- The effective address `I`, an unbounded natural (48_index_and_memory.md R229). -/
def State.indexAddr (s : State) : Nat := s.I.toNat

/-- The value 8xy6 and 8xyE shift: Vy if `SHIFT_USES_VY`, else Vx (44_alu.md R178, R180; log 2). -/
def State.shiftSource (s : State) (x y : Nibble) : Byte := if s.cfg.shiftUsesVy then s.reg y else s.reg x

/-- The condition of 4xnn, inverted if `SNE_SWAPPED` (42_skips.md R152; log 3). -/
def State.sneCond (s : State) (a b : Byte) : Bool := (a != b) ^^ s.cfg.sneSwapped

/-! ### Keys (46_keypad.md) -/

/-- The key whose number is the whole of a register; `none` above 15 (R201). -/
def keyNumber (v : Byte) : Option (Fin 16) := if h : v.toNat < 16 then some ⟨v.toNat, h⟩ else none

/-- The pressed keys, the lowest first. -/
def pressedKeys (key : Vector Bool 16) : List (Fin 16) := (List.finRange 16).filter fun k => key[k]

/-- `KEY_SELECT(Key)` (R203; log 4). It is asked only when some key is pressed. -/
def selectKey (cfg : Config) (key : Vector Bool 16) : Fin 16 :=
  let lowest := (pressedKeys key).head?.getD 0
  match cfg.keySelect with
  | .lowest => lowest
  | .highest => (pressedKeys key).getLast?.getD 0
  | .other n => let k := Config.freeKeySelect n key; if key[k] then k else lowest

/-! ### Sprites (45_display.md R191, R192) -/

/-- The column `V[x] mod 64` a sprite starts at. -/
def State.startColumn (s : State) (x : Nibble) : Nat := (s.reg x).toNat % 64

/-- The row `V[y] mod 32` a sprite starts at. -/
def State.startRow (s : State) (y : Nibble) : Nat := (s.reg y).toNat % 32

/-- One row of a sprite on the screen: bit 7 of the byte at column `x0`, the pixels past column 63 dropped. -/
def spriteBits (b : Byte) (x0 : Nat) : PixelRow := (b ++ 0#56) >>> x0

/-- The pixels a sprite covers in screen row r: those of its byte `r - y0`, none above its first row or below its last. -/
def spriteRow (sprite : List Byte) (x0 y0 r : Nat) : PixelRow :=
  if y0 ≤ r then
    match sprite[r - y0]? with
    | some b => spriteBits b x0
    | none => 0
  else 0

/-- The framebuffer with a sprite's 1 pixels inverted. -/
def drawSprite (fb : Vector PixelRow 32) (sprite : List Byte) (x0 y0 : Nat) : Vector PixelRow 32 :=
  Vector.ofFn fun r => fb[r] ^^^ spriteRow sprite x0 y0 r.val

/-! ### Digits, font and register blocks (48_index_and_memory.md) -/

/-- The hundreds, tens and units digits of a byte, one byte each (R224). -/
def bcdDigits (v : Byte) : List Byte :=
  [BitVec.ofNat 8 (v.toNat / 100), BitVec.ofNat 8 (v.toNat / 10 % 10), BitVec.ofNat 8 (v.toNat % 10)]

/-- The address `0x50 + 5 * Vx` of a glyph, from the whole of Vx (R222). -/
def glyphAddr (v : Byte) : Word := 0x50 + 5 * zextByte v

/-- The bytes V0 to Vx, V0 first (R226). -/
def State.regsUpTo (s : State) (x : Nibble) : List Byte := s.V.toList.take (x.toNat + 1)

end Sys2Proof.Machine
end

