-- ==== Sys2Proof/Machine/Flags.lean ====
section
/-! DEFINITION. The flag values of spec/10_state.md R24, and the write of a result and its flag in the order of R25. -/

namespace Sys2Proof.Machine

/-- The number of VF, the flag register (10_state.md R22). -/
abbrev regF : Nibble := 15#4

/-- A flag value: exactly 0x00 or 0x01 (R24). -/
def flagByte (b : Bool) : Byte := if b then 1 else 0

/-- The carry of 8xy4: `a + b > 255` (44_alu.md R176). -/
def carryOut (a b : Byte) : Bool := decide (a.toNat + b.toNat > 255)

/-- The not-borrow of `a - b`: `a >= b` (44_alu.md R177, R179). -/
def notBorrow (a b : Byte) : Bool := decide (a.toNat ≥ b.toNat)

/-- The bit a right shift drops: bit 0 (44_alu.md R178). -/
def droppedRight (v : Byte) : Bool := v.getLsbD 0

/-- The bit a left shift drops: bit 7 (44_alu.md R180). -/
def droppedLeft (v : Byte) : Bool := v.getLsbD 7

/-- The collision of Dxyn: a pixel that is 1 lies under a 1 pixel of the sprite (45_display.md R192). -/
def collides (fb : Vector PixelRow 32) (sprite : List Byte) (x0 y0 : Nat) : Bool :=
  (List.finRange 32).any fun r => fb[r] &&& spriteRow sprite x0 y0 r.val != 0

/-- `V[F] <- flag`. -/
def State.setFlag (s : State) (flag : Bool) : State := s.setReg regF (flagByte flag)

/-- The result to Vx and then the flag to VF, so that with x = F the flag stays and the result is lost (R25). -/
def State.setResultAndFlag (s : State) (x : Nibble) (v : Byte) (flag : Bool) : State := (s.setReg x v).setFlag flag

end Sys2Proof.Machine
end

