-- ==== Sys2Proof/Machine/Alu.lean ====
section
/-! DEFINITION. 8xy0 to 8xy7 and 8xyE (spec/44_alu.md). Operands are read first, the result goes to Vx, and the flag, where
there is one, to VF last (R170; 10_state.md R25). -/

namespace Sys2Proof.Machine

/-- LD Vx, Vy (R171). -/
def exec8xy0 (x y : Nibble) (s : State) : Answer := (s.setReg x (s.reg y)).advance

/-- OR Vx, Vy (R173); VF is not written (R172). -/
def exec8xy1 (x y : Nibble) (s : State) : Answer := (s.setReg x (s.reg x ||| s.reg y)).advance

/-- AND Vx, Vy (R174); VF is not written (R172). -/
def exec8xy2 (x y : Nibble) (s : State) : Answer := (s.setReg x (s.reg x &&& s.reg y)).advance

/-- XOR Vx, Vy (R175); VF is not written (R172). -/
def exec8xy3 (x y : Nibble) (s : State) : Answer := (s.setReg x (s.reg x ^^^ s.reg y)).advance

/-- ADD Vx, Vy (R176). -/
def exec8xy4 (x y : Nibble) (s : State) : Answer :=
  (s.setResultAndFlag x (s.reg x + s.reg y) (carryOut (s.reg x) (s.reg y))).advance

/-- SUB Vx, Vy (R177). -/
def exec8xy5 (x y : Nibble) (s : State) : Answer :=
  (s.setResultAndFlag x (s.reg x - s.reg y) (notBorrow (s.reg x) (s.reg y))).advance

/-- SHR Vx, Vy (R178): one bit, logical. -/
def exec8xy6 (x y : Nibble) (s : State) : Answer :=
  (s.setResultAndFlag x (s.shiftSource x y >>> 1) (droppedRight (s.shiftSource x y))).advance

/-- SUBN Vx, Vy (R179). -/
def exec8xy7 (x y : Nibble) (s : State) : Answer :=
  (s.setResultAndFlag x (s.reg y - s.reg x) (notBorrow (s.reg y) (s.reg x))).advance

/-- SHL Vx, Vy (R180): one bit. -/
def exec8xyE (x y : Nibble) (s : State) : Answer :=
  (s.setResultAndFlag x (s.shiftSource x y <<< 1) (droppedLeft (s.shiftSource x y))).advance

end Sys2Proof.Machine
end

