-- ==== Sys2Proof/Machine/ControlTransfer.lean ====
section
/-! DEFINITION. 1nnn, 2nnn, 00EE, Bnnn (spec/41_control_transfer.md). -/

namespace Sys2Proof.Machine

/-- JP nnn (R140). -/
def exec1nnn (nnn : Addr12) (s : State) : Answer := s.jump (zextAddr nnn)

/-- CALL nnn (R141): the pushed value is the call's own address; `EINFO` records the instruction word, which is the
encoding of the instruction because every word decodes to one meaning (log 20). -/
def exec2nnn (nnn : Addr12) (s : State) : Answer :=
  match s.push s.pc with
  | some t => t.jump (zextAddr nnn)
  | none => s.raise .stackOverflow (encode (.i2nnn nnn))

/-- RET (R142): the `+ 2` is added here. -/
def exec00EE (s : State) : Answer :=
  match s.pop with
  | some (a, t) => t.jump (a + 2)
  | none => s.raise .stackUnderflow (encode .i00EE)

/-- JP V0, nnn (R143): always V0; the sum is not reduced modulo 4096. -/
def execBnnn (nnn : Addr12) (s : State) : Answer := s.jump (zextAddr nnn + zextByte (s.reg 0))

end Sys2Proof.Machine
end

