-- ==== Sys2Proof/Machine/Display.lean ====
section
/-! DEFINITION. 00E0 and Dxyn (spec/45_display.md). -/

namespace Sys2Proof.Machine

/-- CLS (R190): every pixel 0, `REDRAW` set. -/
def exec00E0 (s : State) : Answer := (s.setScreen (Vector.replicate 32 0)).advance

/-- DRW Vx, Vy, n (R192, R193): the start is reduced, the body is clipped, all n bytes are bounds-checked first, VF and
`REDRAW` are written every time. -/
def execDxyn (x y n : Nibble) (s : State) : Answer :=
  match s.memRead s.indexAddr n.toNat with
  | none => s.raise .dataOob s.I
  | some sprite =>
    let x0 := s.startColumn x
    let y0 := s.startRow y
    ((s.setScreen (drawSprite s.fb sprite x0 y0)).setFlag (collides s.fb sprite x0 y0)).advance

end Sys2Proof.Machine
end

