-- ==== Sys2Proof/Machine/Immediate.lean ====
section
/-! DEFINITION. 6xnn, 7xnn, Annn, Cxnn (spec/43_immediate_and_random.md). -/

namespace Sys2Proof.Machine

/-- LD Vx, nn (R160). -/
def exec6xnn (x : Nibble) (nn : Byte) (s : State) : Answer := (s.setReg x nn).advance

/-- ADD Vx, nn (R162): wraps modulo 256, VF is not written. -/
def exec7xnn (x : Nibble) (nn : Byte) (s : State) : Answer := (s.setReg x (s.reg x + nn)).advance

/-- LD I, nnn (R164). -/
def execAnnn (nnn : Addr12) (s : State) : Answer := (s.setIndex (zextAddr nnn)).advance

/-- RND Vx, nn (R166): the step's random byte under the mask nn. -/
def execCxnn (x : Nibble) (nn : Byte) (s : State) : Answer := ((s.setReg x (s.rnd &&& nn)).countDraw).advance

end Sys2Proof.Machine
end

