-- ==== Sys2Proof/Machine/IndexMemory.lean ====
section
/-! DEFINITION. Fx1E, Fx29, Fx33, Fx55, Fx65 (spec/48_index_and_memory.md). The range of an access is checked as a whole
before the first byte moves, and `I` is not changed by an access (R229). -/

namespace Sys2Proof.Machine

/-- ADD I, Vx (R220): 16 bits, never masked to 12, no flag. -/
def execFx1E (x : Nibble) (s : State) : Answer := (s.setIndex (s.I + zextByte (s.reg x))).advance

/-- LD F, Vx (R222). -/
def execFx29 (x : Nibble) (s : State) : Answer := (s.setIndex (glyphAddr (s.reg x))).advance

/-- LD B, Vx (R224). -/
def execFx33 (x : Nibble) (s : State) : Answer :=
  match s.memWrite s.indexAddr (bcdDigits (s.reg x)) with
  | some t => t.advance
  | none => s.raise .dataOob s.I

/-- LD [I], Vx (R226): V0 to Vx inclusive. -/
def execFx55 (x : Nibble) (s : State) : Answer :=
  match s.memWrite s.indexAddr (s.regsUpTo x) with
  | some t => t.advance
  | none => s.raise .dataOob s.I

/-- LD Vx, [I] (R228): V0 to Vx inclusive. -/
def execFx65 (x : Nibble) (s : State) : Answer :=
  match s.memRead s.indexAddr (x.toNat + 1) with
  | some bs => (s.setRegs bs).advance
  | none => s.raise .dataOob s.I

end Sys2Proof.Machine
end

