-- ==== Sys2Proof/Machine/Keypad.lean ====
section
/-! DEFINITION. Ex9E, ExA1, Fx0A (spec/46_keypad.md). -/

namespace Sys2Proof.Machine

/-- SKP Vx (R201): the key number is all 8 bits of Vx. -/
def execEx9E (x : Nibble) (s : State) : Answer :=
  match keyNumber (s.reg x) with
  | some k => s.skipIf s.key[k]
  | none => s.raise .keyOob (zextByte (s.reg x))

/-- SKNP Vx (R202). -/
def execExA1 (x : Nibble) (s : State) : Answer :=
  match keyNumber (s.reg x) with
  | some k => s.skipIf (!s.key[k])
  | none => s.raise .keyOob (zextByte (s.reg x))

/-- LD Vx, K (R203): level test; `Blocked` with no state change while no key is pressed. -/
def execFx0A (x : Nibble) (s : State) : Answer :=
  if pressedKeys s.key = [] then s.block
  else (s.setReg x (BitVec.ofNat 8 (selectKey s.cfg s.key).val)).advance

end Sys2Proof.Machine
end

