-- ==== Sys2Proof/Machine/Skips.lean ====
section
/-! DEFINITION. 3xnn, 4xnn, 5xy0, 9xy0 (spec/42_skips.md). -/

namespace Sys2Proof.Machine

/-- SE Vx, nn (R151). -/
def exec3xnn (x : Nibble) (nn : Byte) (s : State) : Answer := s.skipIf (s.reg x == nn)

/-- SNE Vx, nn (R152), with the parameter `SNE_SWAPPED`. -/
def exec4xnn (x : Nibble) (nn : Byte) (s : State) : Answer := s.skipIf (s.sneCond (s.reg x) nn)

/-- SE Vx, Vy (R153). -/
def exec5xy0 (x y : Nibble) (s : State) : Answer := s.skipIf (s.reg x == s.reg y)

/-- SNE Vx, Vy (R154). -/
def exec9xy0 (x y : Nibble) (s : State) : Answer := s.skipIf (s.reg x != s.reg y)

end Sys2Proof.Machine
end

