-- ==== Sys2Proof/Machine/Timers.lean ====
section
/-! DEFINITION. Fx07, Fx15, Fx18 (spec/47_timers.md). The tick of the same step comes after the instruction
(40_step_cycle.md R128). -/

namespace Sys2Proof.Machine

/-- LD Vx, DT (R210). -/
def execFx07 (x : Nibble) (s : State) : Answer := (s.setReg x s.dt).advance

/-- LD DT, Vx (R211). -/
def execFx15 (x : Nibble) (s : State) : Answer := (s.setDelay (s.reg x)).advance

/-- LD ST, Vx (R212). -/
def execFx18 (x : Nibble) (s : State) : Answer := (s.setSound (s.reg x)).advance

end Sys2Proof.Machine
end

