-- ==== Sys2Proof/Machine/Dispatch.lean ====
section
/-! DEFINITION. One arm for each instruction: the `Execute` of spec/40_step_cycle.md R126. -/

namespace Sys2Proof.Machine

def exec (i : Instr) (s : State) : Host.Outcome State Fault Refusal :=
  match i with
  | .i00E0 => Sys2Proof.Machine.exec00E0 s
  | .i00EE => Sys2Proof.Machine.exec00EE s
  | .i1nnn nnn => Sys2Proof.Machine.exec1nnn nnn s
  | .i2nnn nnn => Sys2Proof.Machine.exec2nnn nnn s
  | .i3xnn x nn => Sys2Proof.Machine.exec3xnn x nn s
  | .i4xnn x nn => Sys2Proof.Machine.exec4xnn x nn s
  | .i5xy0 x y => Sys2Proof.Machine.exec5xy0 x y s
  | .i6xnn x nn => Sys2Proof.Machine.exec6xnn x nn s
  | .i7xnn x nn => Sys2Proof.Machine.exec7xnn x nn s
  | .i8xy0 x y => Sys2Proof.Machine.exec8xy0 x y s
  | .i8xy1 x y => Sys2Proof.Machine.exec8xy1 x y s
  | .i8xy2 x y => Sys2Proof.Machine.exec8xy2 x y s
  | .i8xy3 x y => Sys2Proof.Machine.exec8xy3 x y s
  | .i8xy4 x y => Sys2Proof.Machine.exec8xy4 x y s
  | .i8xy5 x y => Sys2Proof.Machine.exec8xy5 x y s
  | .i8xy6 x y => Sys2Proof.Machine.exec8xy6 x y s
  | .i8xy7 x y => Sys2Proof.Machine.exec8xy7 x y s
  | .i8xyE x y => Sys2Proof.Machine.exec8xyE x y s
  | .i9xy0 x y => Sys2Proof.Machine.exec9xy0 x y s
  | .iAnnn nnn => Sys2Proof.Machine.execAnnn nnn s
  | .iBnnn nnn => Sys2Proof.Machine.execBnnn nnn s
  | .iCxnn x nn => Sys2Proof.Machine.execCxnn x nn s
  | .iDxyn x y n => Sys2Proof.Machine.execDxyn x y n s
  | .iEx9E x => Sys2Proof.Machine.execEx9E x s
  | .iExA1 x => Sys2Proof.Machine.execExA1 x s
  | .iFx07 x => Sys2Proof.Machine.execFx07 x s
  | .iFx0A x => Sys2Proof.Machine.execFx0A x s
  | .iFx15 x => Sys2Proof.Machine.execFx15 x s
  | .iFx18 x => Sys2Proof.Machine.execFx18 x s
  | .iFx1E x => Sys2Proof.Machine.execFx1E x s
  | .iFx29 x => Sys2Proof.Machine.execFx29 x s
  | .iFx33 x => Sys2Proof.Machine.execFx33 x s
  | .iFx55 x => Sys2Proof.Machine.execFx55 x s
  | .iFx65 x => Sys2Proof.Machine.execFx65 x s

end Sys2Proof.Machine
end

