-- ==== Sys2Proof/Machine/Step.lean ====
section
/-! DEFINITION. One step: the operation `Step` of spec/40_step_cycle.md R120, and the placing of an instruction where it is
fetched. -/

namespace Sys2Proof.Machine

/-- The halt check, the fetch, the decode, and then the unrecognised word's action or the instruction and the tick (R120).
Every answer is a next state, which holds the `StepResult` (log 6, log 7). -/
def step (s : State) : Host.Outcome State Fault Refusal :=
  if s.fault then s.haltedStep
  else
    match s.fetch with
    | none => s.fetchFault
    | some op =>
      match decode op with
      | none => s.unrecognisedWord op
      | some i => endStep (exec i s)

/-- `s` with the word of a table row's bits at the address the next step fetches from (log 10). -/
def State.withFetchWord (s : State) (nbits w : Nat) : State := s.placeWord (tableWord nbits w)

end Sys2Proof.Machine
end

