-- ==== Sys2Proof/Machine/HostOps.lean ====
section
/-! DEFINITION. The operations of the host and its reads (spec/60_exceptions.md R258 to R264; 70_reset_and_hazards.md R280,
R286). Each is one atomic transition between steps; none diverts `pc` (60_exceptions.md R249; log 11). -/

namespace Sys2Proof.Machine

/-- What `LoadProgram` answers (70_reset_and_hazards.md R286). -/
inductive LoadResult where
  | ok
  | capacityExceeded
deriving DecidableEq, Repr

/-- `LoadProgram(bytes)`: refused whole above 3584 bytes, else the bytes at 0x200 on; in any state (R286 to R288; log 12). -/
def State.loadProgram (s : State) (bytes : List Byte) : LoadResult × State :=
  if bytes.length > progMax then (.capacityExceeded, s) else (.ok, s.setBytes progBase bytes)

/-- `SetKey(index, pressed)`: an index of 16 or more is ignored (60_exceptions.md R260). -/
def State.hostSetKey (s : State) (index : Byte) (pressed : Bool) : State :=
  match keyNumber index with
  | some k => s.setKeyState k pressed
  | none => s

/-- `ClearRedraw` (60_exceptions.md R261). -/
def State.clearRedraw (s : State) : State := s.setRedraw false

/-- `Step(rnd)` with the host's random byte (40_step_cycle.md R120). -/
def stepWith (rnd : Byte) (s : State) : Answer := step (s.setRndIn (some rnd))

/-- The operations that change the state (60_exceptions.md R258). -/
inductive HostOp where
  | reset
  | loadProgram (bytes : List Byte)
  | setKey (index : Byte) (pressed : Bool)
  | clearRedraw
  | step (rnd : Byte)
deriving DecidableEq, Repr

/-- One operation of the host. -/
def HostOp.apply : HostOp → State → Answer
  | .reset, s => .next s.hostReset
  | .loadProgram bytes, s => .next (s.loadProgram bytes).2
  | .setKey index pressed, s => .next (s.hostSetKey index pressed)
  | .clearRedraw, s => .next s.clearRedraw
  | .step rnd, s => stepWith rnd s

/-- The host's operations one after the other, in the order it issues them (60_exceptions.md R259). -/
def runOps : List HostOp → State → Answer
  | [], s => .next s
  | op :: ops, s =>
    match op.apply s with
    | .next t => runOps ops t
    | .fault r => .fault r
    | .refused r => .refused r

/-! ### Reads, without side effect (60_exceptions.md R262 to R264) -/

/-- The framebuffer port: pixel `FB[a div 64][a mod 64]` (R262). -/
def State.readPixel (s : State) (a : BitVec 11) : Bool :=
  s.pixel ⟨a.toNat / 64, by have := a.isLt; omega⟩ ⟨a.toNat % 64, by omega⟩

/-- The codes of `CAUSE` (R241). -/
def Cause.code : Cause → BitVec 3
  | .none => 0
  | .fetchOob => 1
  | .dataOob => 2
  | .stackOverflow => 3
  | .stackUnderflow => 4
  | .keyOob => 5

/-- The codes of the output `result` (R257). -/
def StepResult.code : StepResult → BitVec 2
  | .ok => 0
  | .decodeError _ _ => 1
  | .blocked => 2
  | .fault _ _ => 3

/-- The outputs `diag_op` and `diag_pc`, which hold the word and its address with `result = 1` (R257). -/
def StepResult.diag : StepResult → Option (Word × Word)
  | .decodeError op addr => some (op, addr)
  | _ => none

/-- The outputs the host sees (R257, R263, R264); it has no port on `Mem`, `V`, `I`, `pc`, `Stack` or `sp`. -/
structure Outputs where
  result : Option (BitVec 2)
  diag : Option (Word × Word)
  redraw : Bool
  fbData : Bool
  dt : Byte
  st : Byte
  fault : Bool
  cause : BitVec 3
  epc : Word
  einfo : Word
deriving DecidableEq, Repr

/-- The outputs, for the pixel index on `fb_addr`. -/
def State.outputs (s : State) (fbAddr : BitVec 11) : Outputs where
  result := s.result.map StepResult.code
  diag := s.result.bind StepResult.diag
  redraw := s.redraw
  fbData := s.readPixel fbAddr
  dt := s.dt
  st := s.st
  fault := s.fault
  cause := s.cause.code
  epc := s.epc
  einfo := s.einfo

end Sys2Proof.Machine
end

