-- ==== Sys2Proof/Machine/Signals.lean ====
section
/-! DEFINITION. The signal table of spec/60_exceptions.md R257 over the operations: one rising edge of `clk`. A host that
pulses more than one request in a cycle, or a request that a load in progress forbids, has no move (R259; log 13); `rst`
wins over every other request (70_reset_and_hazards.md R281). A step is done in its own cycle: the model has no time
(log 14). -/

namespace Sys2Proof.Machine

/-- The input signals of R257, the clock left out. -/
structure Pins where
  rst : Bool := false
  step : Bool := false
  rnd : Byte := 0
  keyWe : Bool := false
  keyIdx : Byte := 0
  keyVal : Bool := false
  redrawClr : Bool := false
  ldStart : Bool := false
  ldLen : Word := 0
  ldValid : Bool := false
  ldData : Byte := 0
deriving DecidableEq, Repr

/-- A load in progress: its length, and the bytes accepted so far in order (70_reset_and_hazards.md R286). -/
structure Load where
  len : Nat
  got : List Byte
deriving DecidableEq, Repr

/-- The core and its loader. The accepted bytes reach memory together, when the last one has come, so that the load is
one atomic operation. -/
structure Board where
  core : State
  load : Option Load
deriving DecidableEq, Repr

/-- The output pulses of R257. -/
structure Pulses where
  done : Bool := false
  ldErr : Bool := false
  ldDone : Bool := false
deriving DecidableEq, Repr

/-- How many requests other than `rst` a cycle holds. -/
def Pins.requests (p : Pins) : Nat := [p.step, p.keyWe, p.redrawClr, p.ldStart, p.ldValid].count true

/-- The board after an operation of the core. -/
def Board.did (b : Board) (a : Answer) (pulses : Pulses) : Option (Board × Pulses) :=
  match a with
  | .next t => some ({ b with core := t }, pulses)
  | _ => none

/-- `ld_start`: refused at once above 3584 bytes; a load of no bytes is complete at once (R286). -/
def Board.startLoad (b : Board) (len : Nat) : Option (Board × Pulses) :=
  if len > progMax then some (b, { ldErr := true })
  else if len = 0 then some (b, { ldDone := true })
  else some ({ b with load := some ⟨len, []⟩ }, {})

/-- `ld_valid`: one byte more of the load; with the last one the load is performed (R286). -/
def Board.takeByte (b : Board) (l : Load) (v : Byte) : Option (Board × Pulses) :=
  if l.got.length + 1 = l.len then
    some ({ core := (b.core.loadProgram (l.got ++ [v])).2, load := none }, { ldDone := true })
  else some ({ b with load := some { l with got := l.got ++ [v] } }, {})

/-- One cycle; `none`: the host has broken R259 or the order of the load handshake and has no move. -/
def Board.clock (p : Pins) (b : Board) : Option (Board × Pulses) :=
  if p.rst then some ({ core := b.core.hostReset, load := none }, {})
  else if p.requests > 1 then none
  else if p.requests = 0 then some (b, {})
  else
    match b.load with
    | some l => if p.ldValid then b.takeByte l p.ldData else none
    | none =>
      if p.step then b.did (HostOp.apply (.step p.rnd) b.core) { done := true }
      else if p.keyWe then b.did (HostOp.apply (.setKey p.keyIdx p.keyVal) b.core) {}
      else if p.redrawClr then b.did (HostOp.apply .clearRedraw b.core) {}
      else if p.ldStart then b.startLoad p.ldLen.toNat
      else none

/-- The board after a list of cycles and the pulses of each, if the host has a move in each. -/
def Board.run : List Pins → Board → Option (Board × List Pulses)
  | [], b => some (b, [])
  | p :: ps, b =>
    match Board.clock p b with
    | some (c, out) => (Board.run ps c).map fun r => (r.1, out :: r.2)
    | none => none

end Sys2Proof.Machine
end

