-- ==== Sys2Proof/Safety.lean ====
section
/-! DEFINITION. The terms claims are stated in: the parts of a state and what an operation keeps of them, how an
instruction ends, the invariant of the reachable states (spec/10_state.md R43), and runs. -/

namespace Sys2Proof.Machine

/-! ### The parts of a state, and frames -/

/-- One place of the state: every element of 10_state.md R20 cell by cell, and the model's own fields. -/
inductive Part where
  | byte (a : Nat)
  | reg (x : Nibble)
  | index
  | pc
  | slot (k : Fin 16)
  | sp
  | pixel (r : Fin 32) (c : Fin 64)
  | key (k : Fin 16)
  | dt
  | st
  | redraw
  | fault
  | cause
  | epc
  | einfo
  | params
  | rndIn
  | draws
  | result
deriving DecidableEq, Repr

/-- Two states hold the same at a place; memory is compared through the read of one byte. -/
def Same : Part → State → State → Prop
  | .byte a, s, t => t.byte a = s.byte a
  | .reg x, s, t => t.reg x = s.reg x
  | .index, s, t => t.I = s.I
  | .pc, s, t => t.pc = s.pc
  | .slot k, s, t => t.stack[k] = s.stack[k]
  | .sp, s, t => t.sp = s.sp
  | .pixel r c, s, t => t.pixel r c = s.pixel r c
  | .key k, s, t => t.key[k] = s.key[k]
  | .dt, s, t => t.dt = s.dt
  | .st, s, t => t.st = s.st
  | .redraw, s, t => t.redraw = s.redraw
  | .fault, s, t => t.fault = s.fault
  | .cause, s, t => t.cause = s.cause
  | .epc, s, t => t.epc = s.epc
  | .einfo, s, t => t.einfo = s.einfo
  | .params, s, t => t.cfg = s.cfg
  | .rndIn, s, t => t.rndIn = s.rndIn
  | .draws, s, t => t.draws = s.draws
  | .result, s, t => t.result = s.result

/-- Every place outside `touched` is the same in both states. -/
def Keeps (s t : State) (touched : Part → Prop) : Prop := ∀ p, ¬ touched p → Same p s t

/-- An instruction has completed (40_step_cycle.md R126): the result is `Ok`, `pc` has the value given, and every other
place outside `touched` is as before. -/
def Completed (s t : State) (pc : Word) (touched : Part → Prop) : Prop :=
  t.result = some .ok ∧ t.pc = pc ∧ Keeps s t fun p => p = .pc ∨ p = .result ∨ touched p

/-- A fault has been taken (60_exceptions.md R243, R244): the four registers and the result say so, and every other place
is as before. -/
def FaultTaken (s t : State) (cause : Cause) (info : Word) : Prop :=
  t.fault = true ∧ t.cause = cause ∧ t.epc = s.pc ∧ t.einfo = info ∧ t.result = some (.fault cause info) ∧
  Keeps s t fun p => p = .fault ∨ p = .cause ∨ p = .epc ∨ p = .einfo ∨ p = .result

/-! ### Tables of the spec over the instructions, written from its columns and not from the meanings -/

/-- The column "writes" of 10_state.md R23: the general registers an instruction may write. -/
def writesReg : Instr → Nibble → Prop
  | .i00E0, _ => False
  | .i00EE, _ => False
  | .i1nnn _, _ => False
  | .i2nnn _, _ => False
  | .i3xnn _ _, _ => False
  | .i4xnn _ _, _ => False
  | .i5xy0 _ _, _ => False
  | .i6xnn x _, r => r = x
  | .i7xnn x _, r => r = x
  | .i8xy0 x _, r => r = x
  | .i8xy1 x _, r => r = x
  | .i8xy2 x _, r => r = x
  | .i8xy3 x _, r => r = x
  | .i8xy4 x _, r => r = x ∨ r = 15#4
  | .i8xy5 x _, r => r = x ∨ r = 15#4
  | .i8xy6 x _, r => r = x ∨ r = 15#4
  | .i8xy7 x _, r => r = x ∨ r = 15#4
  | .i8xyE x _, r => r = x ∨ r = 15#4
  | .i9xy0 _ _, _ => False
  | .iAnnn _, _ => False
  | .iBnnn _, _ => False
  | .iCxnn x _, r => r = x
  | .iDxyn _ _ _, r => r = 15#4
  | .iEx9E _, _ => False
  | .iExA1 _, _ => False
  | .iFx07 x, r => r = x
  | .iFx0A x, r => r = x
  | .iFx15 _, _ => False
  | .iFx18 _, _ => False
  | .iFx1E _, _ => False
  | .iFx29 _, _ => False
  | .iFx33 _, _ => False
  | .iFx55 _, _ => False
  | .iFx65 x, r => r.toNat ≤ x.toNat

/-- The column "raised by" of 60_exceptions.md R241: the instructions that can raise a fault (R242). -/
def canFault (i : Instr) : Prop :=
  i = .i00EE ∨ (∃ nnn, i = .i2nnn nnn) ∨ (∃ x y n, i = .iDxyn x y n) ∨ (∃ x, i = .iFx33 x) ∨ (∃ x, i = .iFx55 x) ∨
  (∃ x, i = .iFx65 x) ∨ (∃ x, i = .iEx9E x) ∨ ∃ x, i = .iExA1 x

/-- The column "written by" of 10_state.md R20, for the instructions alone (the tick and the host's operations are not
instructions); the model's own fields follow log 5, 6 and 9. -/
def mayWrite (i : Instr) : Part → Prop
  | .byte _ => (∃ x, i = .iFx33 x) ∨ ∃ x, i = .iFx55 x
  | .reg r => writesReg i r
  | .index => (∃ nnn, i = .iAnnn nnn) ∨ (∃ x, i = .iFx1E x) ∨ ∃ x, i = .iFx29 x
  | .pc => True
  | .slot _ => ∃ nnn, i = .i2nnn nnn
  | .sp => i = .i00EE ∨ ∃ nnn, i = .i2nnn nnn
  | .pixel _ _ => i = .i00E0 ∨ ∃ x y n, i = .iDxyn x y n
  | .key _ => False
  | .dt => ∃ x, i = .iFx15 x
  | .st => ∃ x, i = .iFx18 x
  | .redraw => i = .i00E0 ∨ ∃ x y n, i = .iDxyn x y n
  | .fault => canFault i
  | .cause => canFault i
  | .epc => canFault i
  | .einfo => canFault i
  | .params => False
  | .rndIn => False
  | .draws => ∃ x nn, i = .iCxnn x nn
  | .result => True

/-- The fault an instruction raises in a state, cause and `EINFO`, by the columns "when" and "EINFO records" of
60_exceptions.md R241. -/
def faultOf (s : State) : Instr → Option (Cause × Word)
  | .i00EE => if s.sp.val = 0 then some (.stackUnderflow, 0x00EE) else none
  | .i2nnn nnn => if s.sp.val = 16 then some (.stackOverflow, BitVec.ofNat 16 (0x2000 + nnn.toNat)) else none
  | .iDxyn _ _ n => if 0 < n.toNat ∧ 4095 < s.I.toNat + n.toNat - 1 then some (.dataOob, s.I) else none
  | .iFx33 _ => if 4095 < s.I.toNat + 2 then some (.dataOob, s.I) else none
  | .iFx55 x => if 4095 < s.I.toNat + x.toNat then some (.dataOob, s.I) else none
  | .iFx65 x => if 4095 < s.I.toNat + x.toNat then some (.dataOob, s.I) else none
  | .iEx9E x => if 15 < (s.reg x).toNat then some (.keyOob, BitVec.ofNat 16 (s.reg x).toNat) else none
  | .iExA1 x => if 15 < (s.reg x).toNat then some (.keyOob, BitVec.ofNat 16 (s.reg x).toNat) else none
  | .i00E0 | .i1nnn _ | .i3xnn _ _ | .i4xnn _ _ | .i5xy0 _ _ | .i6xnn _ _ | .i7xnn _ _ | .i8xy0 _ _ | .i8xy1 _ _
  | .i8xy2 _ _ | .i8xy3 _ _ | .i8xy4 _ _ | .i8xy5 _ _ | .i8xy6 _ _ | .i8xy7 _ _ | .i8xyE _ _ | .i9xy0 _ _ | .iAnnn _
  | .iBnnn _ | .iCxnn _ _ | .iFx07 _ | .iFx0A _ | .iFx15 _ | .iFx18 _ | .iFx1E _ | .iFx29 _ => none

/-- The pixel a sprite of n rows at column x0 and row y0 has at a place of the screen (45_display.md R191, R192): bit
`7 - (c - x0)` of the byte `I + (r - y0)` inside its n rows and 8 columns, 0 elsewhere. -/
def spritePixel (s : State) (n x0 y0 : Nat) (r : Fin 32) (c : Fin 64) : Bool :=
  decide (y0 ≤ r.val ∧ r.val < y0 + n ∧ x0 ≤ c.val ∧ c.val < x0 + 8) &&
    (s.byte (s.I.toNat + (r.val - y0))).getLsbD (7 - (c.val - x0))

/-! ### What a program cannot see -/

/-- An answer with its next state changed by a function. -/
def mapNext (f : State → State) : Answer → Answer
  | .next s => .next (f s)
  | .fault r => .fault r
  | .refused r => .refused r

/-- A state with what no instruction reads wiped: `ST`, `REDRAW`, the fault registers (10_state.md R39) and the outputs of
the last step. -/
def State.hideOutputs (s : State) : State :=
  { s with st := 0, redraw := false, fault := false, cause := .none, epc := 0, einfo := 0, result := none }

/-! ### The invariant of the reachable states -/

/-- 10_state.md R43, less what the types already say (`sp` at most 16, pixels 0 or 1), the canonical form of memory,
and the fault registers while there is no fault. -/
structure Invariant (s : State) : Prop where
  /-- Memory is in canonical form (log 8). -/
  memory : Memory.wf s.cfg s.mem = true
  /-- `pc <= 0x10FE`. -/
  pcLow : s.pc.toNat ≤ 0x10FE
  /-- Every stack slot in use is at most 4094. -/
  slots : ∀ k : Fin 16, k.val < s.sp.val → s.stack[k].toNat ≤ 4094
  /-- `CAUSE = 0` exactly when `FAULT = 0`. -/
  causeFault : s.cause = .none ↔ s.fault = false
  /-- While `FAULT = 0`, `EPC` and `EINFO` are 0: only a fault entry writes them (10_state.md R38; 60_exceptions.md R241). -/
  quiet : s.fault = false → s.epc = 0 ∧ s.einfo = 0

/-! ### Runs -/

/-- The state a step leaves; a step always leaves one. -/
def State.after (s : State) : State :=
  match step s with
  | .next t => t
  | _ => s

/-- The state after n steps. -/
def State.afterSteps : Nat → State → State
  | 0, s => s
  | n + 1, s => State.afterSteps n s.after

/-- The instruction the next step executes, if it executes one (40_step_cycle.md R120). -/
def State.nextInstr (s : State) : Option Instr := if s.fault then none else s.fetch.bind decode

/-- The states a session reaches: it begins with `Reset`, on a core with any parameters, and goes on with any of the host's
operations (10_state.md R42, R43; 60_exceptions.md R258). -/
def Reachable (s : State) : Prop := ∃ cfg ops, runOps ops (State.resetWith cfg) = .next s

end Sys2Proof.Machine
end

