-- ==== Sys2Proof/Certificates/Slice0/Obligations.lean ====
section
/-! DEFINITION. The statements for the provers. `Completed`, `FaultTaken`, `Keeps` and the tables over the instructions are
in Sys2Proof/Safety.lean. The frame of an instruction is the last part of `Completed`: every place outside those named,
every byte of memory among them, is as before. The statements hold for every setting of the parameters, which a state
carries in `cfg`. -/

open Sys2Proof Sys2Proof.Machine

/-! ### Reset and the invariant -/

/-- 10_state.md R41: `Reset`, from any state (halted ones too) and with any parameters, gives every element its value. -/
def Obligations.ResetGivesEveryElementItsValue : Prop :=
  ∀ s : State,
    (∀ k : Fin 80, s.hostReset.byte (0x50 + k.val) = (s.cfg.font[k.val / 5])[k.val % 5]) ∧
    (∀ a, a < 4096 → (a < 0x50 ∨ 0x9F < a) → s.hostReset.byte a = 0) ∧
    (∀ x, s.hostReset.reg x = 0) ∧ s.hostReset.I = 0 ∧ s.hostReset.pc = 0x200 ∧
    (∀ k : Fin 16, s.hostReset.stack[k] = 0) ∧ s.hostReset.sp = 0 ∧
    (∀ r c, s.hostReset.pixel r c = false) ∧ (∀ k : Fin 16, s.hostReset.key[k] = false) ∧
    s.hostReset.dt = 0 ∧ s.hostReset.st = 0 ∧ s.hostReset.redraw = false ∧
    s.hostReset.fault = false ∧ s.hostReset.cause = .none ∧ s.hostReset.epc = 0 ∧ s.hostReset.einfo = 0

/-- The state after reset meets the invariant, with any parameters; the machine's reset state is the one with the default
parameters. -/
def Obligations.InvariantHoldsAtReset : Prop :=
  (∀ cfg, Invariant (State.resetWith cfg)) ∧ Invariant core.reset

/-- Every step keeps the invariant: memory stays canonical (the model's representation, log 8), `pc` stays at most 0x10FE,
every stack slot in use at most 4094, CAUSE is 0 exactly when FAULT is 0, and EPC and
EINFO are 0 while FAULT is 0 (the spec derives the bounds in 10_state.md, "Invariants of reachable states"). -/
def Obligations.StepKeepsInvariant : Prop :=
  ∀ s t : State, Invariant s → step s = .next t → Invariant t

/-- Every operation of the host keeps the invariant. -/
def Obligations.HostOperationKeepsInvariant : Prop :=
  ∀ (op : HostOp) (s t : State), Invariant s → op.apply s = .next t → Invariant t

/-- Whatever the host does after `Reset`, the state meets the invariant, and no operation leaves the machine without a
state. The spec derives the bounds on `pc`, the stack and CAUSE in 10_state.md, "Invariants of reachable states"; the
canonical form of memory, part of the invariant, is the model's (log 8), and so is a load after the first step (log 12). -/
def Obligations.ReachableStatesMeetInvariant : Prop :=
  (∀ s, Reachable s → Invariant s) ∧ ∀ cfg ops, ∃ s, runOps ops (State.resetWith cfg) = .next s

/-! ### The step cycle -/

/-- `Step` is total and returns a result in every state (the spec derives it in 40_step_cycle.md, "Consequences"); a core
that is halted or faults answers a next state (log 7). -/
def Obligations.StepAlwaysAnswers : Prop :=
  ∀ s : State, ∃ t r, step s = .next t ∧ t.result = some r

/-- When the two bytes at `pc` decode to an instruction of a core that runs, the step is that instruction, then, if it
completed, the tick of both timers with floor 0; the byte on `rnd` is used up (log 5). -/
def Obligations.StepRunsDecodedInstruction : Prop :=
  ∀ (s t : State) (i : Instr), s.fault = false → s.pc.toNat + 1 ≤ 4095 →
    decode (wordOf (s.byte s.pc.toNat) (s.byte (s.pc.toNat + 1))) = some i → exec i s = .next t →
    step s = .next
      (if t.result = some .ok then
        { t with dt := BitVec.ofNat 8 (t.dt.toNat - 1), st := BitVec.ofNat 8 (t.st.toNat - 1), rndIn := none }
      else { t with rndIn := none })

/-- An instruction placed where the next step fetches it is the one the step runs, from any state (log 10). -/
def Obligations.PlacedWordIsExecuted : Prop :=
  ∀ (s : State) (op : Word) (i : Instr), Memory.wf s.cfg s.mem = true → decode op = some i →
    (s.withFetchWord 16 op.toNat).nextInstr = some i ∧
    step (s.withFetchWord 16 op.toNat) = endStep (exec i (s.withFetchWord 16 op.toNat))

/-- 40_step_cycle.md R122: a halted core's step changes nothing and returns the latched fault (the result port and the
used-up input aside, log 5 and 6). -/
def Obligations.HaltedStepChangesNothing : Prop :=
  ∀ s : State, s.fault = true →
    ∃ t, step s = .next t ∧ t.result = some (.fault s.cause s.einfo) ∧ Keeps s t fun p => p = .result ∨ p = .rndIn

/-- 40_step_cycle.md R123: the fetch faults when `pc + 1 > 4095`, and otherwise reads the two bytes at `pc`, big-endian,
whatever the parity of `pc` and wherever it lies. -/
def Obligations.FetchReadsTwoBytesOrFaults : Prop :=
  ∀ s : State,
    (s.fault = false → 4095 < s.pc.toNat + 1 →
      ∃ t, step s = .next t ∧ FaultTaken (s.setRndIn none) t .fetchOob s.pc) ∧
    (s.pc.toNat + 1 ≤ 4095 →
      ∃ op, s.fetch = some op ∧ op.toNat = (s.byte s.pc.toNat).toNat * 256 + (s.byte (s.pc.toNat + 1)).toNat)

/-- 40_step_cycle.md R125 (decisions D8, D28): an unrecognised word moves `pc` by 2, ticks the timers, is reported with
its address, and changes nothing else. -/
def Obligations.UnrecognisedWordAdvancesAndTicks : Prop :=
  ∀ (s : State) (op : Word), s.fault = false → s.fetch = some op → decode op = none →
    ∃ t, step s = .next t ∧ t.result = some (.decodeError op s.pc) ∧ t.pc = s.pc + 2 ∧
      t.dt.toNat = s.dt.toNat - 1 ∧ t.st.toNat = s.st.toNat - 1 ∧
      Keeps s t fun p => p = .pc ∨ p = .dt ∨ p = .st ∨ p = .result ∨ p = .rndIn

/-- 40_step_cycle.md R127: a blocked step changes no state, and the next step fetches the same Fx0A again. -/
def Obligations.BlockedStepChangesNothing : Prop :=
  ∀ (s : State) (x : Nibble), s.nextInstr = some (.iFx0A x) → (∀ k : Fin 16, s.key[k] = false) →
    ∃ t, step s = .next t ∧ t.result = some .blocked ∧ t.nextInstr = some (.iFx0A x) ∧
      Keeps s t fun p => p = .result ∨ p = .rndIn

/-- 47_timers.md R213, R214: over a step that completes an instruction or meets an unrecognised word, each timer goes down
by one with floor 0, from the value Fx15 or Fx18 has just written if the step ran it; a step that is blocked or faults, and
every operation of the host but `Reset` and `Step`, leaves both alone; `Reset` gives 0. -/
def Obligations.TimersCountCompletedSteps : Prop :=
  (∀ s t : State, step s = .next t →
    ((t.result = some .ok ∨ ∃ op addr, t.result = some (.decodeError op addr)) →
      ((∀ x, s.nextInstr = some (.iFx15 x) → t.dt.toNat = (s.reg x).toNat - 1) ∧
       ((∀ x, s.nextInstr ≠ some (.iFx15 x)) → t.dt.toNat = s.dt.toNat - 1) ∧
       (∀ x, s.nextInstr = some (.iFx18 x) → t.st.toNat = (s.reg x).toNat - 1) ∧
       ((∀ x, s.nextInstr ≠ some (.iFx18 x)) → t.st.toNat = s.st.toNat - 1))) ∧
    ((t.result = some .blocked ∨ ∃ c info, t.result = some (.fault c info)) → t.dt = s.dt ∧ t.st = s.st)) ∧
  (∀ (op : HostOp) (s t : State), op ≠ .reset → (∀ rnd, op ≠ .step rnd) → op.apply s = .next t →
    t.dt = s.dt ∧ t.st = s.st) ∧
  ∀ s : State, s.hostReset.dt = 0 ∧ s.hostReset.st = 0

/-- After n steps none of which is blocked or faults and none of which runs Fx15 (Fx18), the delay (sound) timer that held
D holds `max(0, D - n)` (the spec derives it in 40_step_cycle.md, "Consequences"). -/
def Obligations.TimerAfterStepsIsInitialLessCount : Prop :=
  ∀ (n : Nat) (s : State),
    (∀ k, k < n → (s.afterSteps (k + 1)).result = some .ok ∨
      ∃ op addr, (s.afterSteps (k + 1)).result = some (.decodeError op addr)) →
    ((∀ k x, k < n → (s.afterSteps k).nextInstr ≠ some (.iFx15 x)) → (s.afterSteps n).dt.toNat = s.dt.toNat - n) ∧
    ((∀ k x, k < n → (s.afterSteps k).nextInstr ≠ some (.iFx18 x)) → (s.afterSteps n).st.toNat = s.st.toNat - n)

/-! ### Encoding -/

/-- Decoding the word of any instruction, with any operands, gives the instruction back. -/
def Obligations.DecodeOfEncode : Prop := ∀ i : Instr, decode (encode i) = some i

/-- A word that decodes to an instruction is the word of that instruction: no two words mean the same. -/
def Obligations.EncodeOfDecode : Prop := ∀ (op : Word) (i : Instr), decode op = some i → encode i = op

/-- An instruction's two bytes, high byte first, in front of any others, decode to it and leave the others. -/
def Obligations.BytesDecodeToTheirInstruction : Prop :=
  ∀ (i : Instr) (rest : List Byte),
    decodeBytes (BitVec.ofNat 8 ((encode i).toNat / 256) :: BitVec.ofNat 8 ((encode i).toNat % 256) :: rest) =
      .instr i rest

/-- 30_encoding.md R92: where the fields of a word are, and how they overlap. -/
def Obligations.FieldsOfAWord : Prop :=
  ∀ op : Word,
    (opX op).toNat = op.toNat / 2 ^ 8 % 2 ^ 4 ∧ (opY op).toNat = op.toNat / 2 ^ 4 % 2 ^ 4 ∧
    (opN op).toNat = op.toNat % 2 ^ 4 ∧ (opNN op).toNat = op.toNat % 2 ^ 8 ∧ (opNNN op).toNat = op.toNat % 2 ^ 12 ∧
    (opNN op).toNat = (opY op).toNat * 2 ^ 4 + (opN op).toNat ∧
    (opNNN op).toNat = (opX op).toNat * 2 ^ 8 + (opNN op).toNat

/-- 30_encoding.md R96: a word decodes to an instruction of a row exactly when `op AND mask = match` for that row, so that
the 34 rows are disjoint and the decoder knows no other word. -/
def Obligations.DecoderAgreesWithOpcodeTable : Prop :=
  rows.length = 34 ∧
  (∀ (op : Word) (r : Row), r ∈ rows → ((op &&& r.mask) = r.value ↔ ∃ i, decode op = some i ∧ i.row = r)) ∧
  ∀ (op : Word) (i : Instr), decode op = some i → i.row ∈ rows

/-- The unrecognised words are those of the spec's list (30_encoding.md, "Unrecognised encodings"), by their digits. -/
def Obligations.UnrecognisedWordsAreTheListed : Prop :=
  ∀ op : Word, decode op = none ↔
    (op.toNat / 4096 = 0x0 ∧ op.toNat ≠ 0x00E0 ∧ op.toNat ≠ 0x00EE) ∨
    (op.toNat / 4096 = 0x5 ∧ op.toNat % 16 ≠ 0) ∨
    (op.toNat / 4096 = 0x8 ∧ op.toNat % 16 ∈ [0x8, 0x9, 0xA, 0xB, 0xC, 0xD, 0xF]) ∨
    (op.toNat / 4096 = 0x9 ∧ op.toNat % 16 ≠ 0) ∨
    (op.toNat / 4096 = 0xE ∧ op.toNat % 256 ∉ [0x9E, 0xA1]) ∨
    (op.toNat / 4096 = 0xF ∧ op.toNat % 256 ∉ [0x07, 0x0A, 0x15, 0x18, 0x1E, 0x29, 0x33, 0x55, 0x65])

/-- Words written out from the formats, one of each: 00EE, 2nnn with nnn = 0x300, 3xnn with x = 3 and nn = 0x2A, 8xyE with
x = 1 and y = 2, Dxyn with x = 7, y = 10, n = 5, Fx65 with x = 15; and one that is no instruction. -/
def Obligations.SampleWordsDecode : Prop :=
  decode 0b0000000011101110 = some .i00EE ∧
  decode 0b0010001100000000 = some (.i2nnn 0x300) ∧
  decode 0b0011001100101010 = some (.i3xnn 3 0x2A) ∧
  decode 0b1000000100101110 = some (.i8xyE 1 2) ∧
  decode 0b1101011110100101 = some (.iDxyn 7 10 5) ∧
  decode 0b1111111101100101 = some (.iFx65 15) ∧
  decode 0b0101000100100001 = none

/-! ### Control transfer -/

/-- 41_control_transfer.md R140, R143: 1nnn goes to nnn, Bnnn to nnn + V0 unreduced; nothing else changes. -/
def Obligations.JumpsSetPc : Prop :=
  ∀ (nnn : Addr12) (s : State),
    (∃ t, exec (.i1nnn nnn) s = .next t ∧ t.pc.toNat = nnn.toNat ∧ Completed s t t.pc fun _ => False) ∧
    (∃ t, exec (.iBnnn nnn) s = .next t ∧ t.pc.toNat = nnn.toNat + (s.reg 0).toNat ∧
      Completed s t t.pc fun _ => False)

/-- 41_control_transfer.md R141 (decision D6): 2nnn pushes its own address and goes to nnn; with all 16 slots in use it
faults. -/
def Obligations.CallPushesItsAddress : Prop :=
  ∀ (nnn : Addr12) (s : State),
    (∀ h : s.sp.val < 16, ∃ t, exec (.i2nnn nnn) s = .next t ∧ t.stack[s.sp.val] = s.pc ∧ t.sp.val = s.sp.val + 1 ∧
      Completed s t (BitVec.ofNat 16 nnn.toNat) fun p => p = .slot ⟨s.sp.val, h⟩ ∨ p = .sp) ∧
    (s.sp.val = 16 → ∃ t, exec (.i2nnn nnn) s = .next t ∧
      FaultTaken s t .stackOverflow (BitVec.ofNat 16 (0x2000 + nnn.toNat)))

/-- 41_control_transfer.md R142 (decision D6): 00EE goes to 2 past the address in the slot below `sp` and keeps the slot;
with an empty stack it faults. -/
def Obligations.ReturnPopsAddress : Prop :=
  ∀ s : State,
    (∀ h : s.sp.val ≠ 0, ∃ t, exec .i00EE s = .next t ∧ t.sp.val = s.sp.val - 1 ∧
      Completed s t (s.stack[s.sp.val - 1] + 2) fun p => p = .sp) ∧
    (s.sp.val = 0 → ∃ t, exec .i00EE s = .next t ∧ FaultTaken s t .stackUnderflow 0x00EE)

/-- A return with the stack as a call left it goes to 2 past the call (the spec derives it in 41_control_transfer.md,
"Call and return are inverse"). -/
def Obligations.ReturnUndoesCall : Prop :=
  ∀ (nnn : Addr12) (s t u : State), exec (.i2nnn nnn) s = .next t → t.result = some .ok → u.sp = t.sp →
    (∀ k : Fin 16, k.val < t.sp.val → u.stack[k] = t.stack[k]) →
    ∃ v, exec .i00EE u = .next v ∧ v.result = some .ok ∧ v.pc = s.pc + 2 ∧ v.sp = s.sp

/-! ### Skips -/

/-- 42_skips.md R151, R152 (decision D13): 3xnn skips when Vx = nn, 4xnn when Vx differs from nn, or on equality with
`SNE_SWAPPED`; only `pc` changes. -/
def Obligations.SkipsOnImmediate : Prop :=
  ∀ (x : Nibble) (nn : Byte) (s : State),
    (∃ t, exec (.i3xnn x nn) s = .next t ∧
      Completed s t (if s.reg x = nn then s.pc + 4 else s.pc + 2) fun _ => False) ∧
    (∃ t, exec (.i4xnn x nn) s = .next t ∧
      Completed s t (if (if s.cfg.sneSwapped = true then s.reg x = nn else s.reg x ≠ nn) then s.pc + 4 else s.pc + 2)
        fun _ => False)

/-- 42_skips.md R153, R154: 5xy0 skips when Vx = Vy, 9xy0 when they differ; only `pc` changes. -/
def Obligations.SkipsOnRegisters : Prop :=
  ∀ (x y : Nibble) (s : State),
    (∃ t, exec (.i5xy0 x y) s = .next t ∧
      Completed s t (if s.reg x = s.reg y then s.pc + 4 else s.pc + 2) fun _ => False) ∧
    (∃ t, exec (.i9xy0 x y) s = .next t ∧
      Completed s t (if s.reg x ≠ s.reg y then s.pc + 4 else s.pc + 2) fun _ => False)

/-- 46_keypad.md R201, R202 (decision D16): Ex9E and ExA1 skip on the key whose number is the whole of Vx, pressed or not
pressed; a number above 15 faults. -/
def Obligations.SkipsOnKey : Prop :=
  ∀ (x : Nibble) (s : State),
    (∀ h : (s.reg x).toNat < 16,
      (∃ t, exec (.iEx9E x) s = .next t ∧
        Completed s t (if s.key[(s.reg x).toNat] = true then s.pc + 4 else s.pc + 2) fun _ => False) ∧
      (∃ t, exec (.iExA1 x) s = .next t ∧
        Completed s t (if s.key[(s.reg x).toNat] = false then s.pc + 4 else s.pc + 2) fun _ => False)) ∧
    (15 < (s.reg x).toNat →
      (∃ t, exec (.iEx9E x) s = .next t ∧ FaultTaken s t .keyOob (BitVec.ofNat 16 (s.reg x).toNat)) ∧
      (∃ t, exec (.iExA1 x) s = .next t ∧ FaultTaken s t .keyOob (BitVec.ofNat 16 (s.reg x).toNat)))

/-! ### Registers, immediates, arithmetic -/

/-- 43_immediate_and_random.md R160, R162: 6xnn loads nn, 7xnn adds it modulo 256; only Vx and `pc` change, so that VF is
not a flag here. -/
def Obligations.LoadAndAddImmediate : Prop :=
  ∀ (x : Nibble) (nn : Byte) (s : State),
    (∃ t, exec (.i6xnn x nn) s = .next t ∧ t.reg x = nn ∧ Completed s t (s.pc + 2) fun p => p = .reg x) ∧
    (∃ t, exec (.i7xnn x nn) s = .next t ∧ (t.reg x).toNat = ((s.reg x).toNat + nn.toNat) % 256 ∧
      Completed s t (s.pc + 2) fun p => p = .reg x)

/-- 43_immediate_and_random.md R166 (decision D29): Cxnn completes in every state, and Vx receives the random byte of the
step under the mask nn; over the whole operation `Step(r)` that byte is the host's r. Where the host gave no byte, the value
of Vx is the model's (log 5) and stands in the next statement; the counter `draws` is the model's own. -/
def Obligations.RandomByteUnderMask : Prop :=
  ∀ (x : Nibble) (nn : Byte) (s : State),
    (∃ t, exec (.iCxnn x nn) s = .next t ∧
      (∀ rnd, s.rndIn = some rnd → t.reg x = rnd &&& nn) ∧
      Completed s t (s.pc + 2) fun p => p = .reg x ∨ p = .draws) ∧
    ∀ r : Byte, s.nextInstr = some (.iCxnn x nn) →
      ∃ t, (HostOp.step r).apply s = .next t ∧ t.reg x = r &&& nn ∧
        Completed s t (s.pc + 2) fun p => p = .reg x ∨ p = .dt ∨ p = .st ∨ p = .rndIn ∨ p = .draws

/-- The model's choice of log 5: where the host gave no byte, Cxnn takes the free byte at the index `draws`, and every
Cxnn, whichever byte it used, leaves the next one to the next. -/
def Obligations.FreeRandomBytesAreCounted : Prop :=
  ∀ (x : Nibble) (nn : Byte) (s : State),
    ∃ t, exec (.iCxnn x nn) s = .next t ∧ (s.rndIn = none → t.reg x = Config.rnd s.draws &&& nn) ∧ t.draws = s.draws + 1

/-- 44_alu.md R171, R173, R174, R175, R172 (decision D11): move, OR, AND, XOR; only Vx and `pc` change, so that VF keeps its
value unless x = F. -/
def Obligations.MoveAndLogic : Prop :=
  ∀ (x y : Nibble) (s : State),
    (∃ t, exec (.i8xy0 x y) s = .next t ∧ t.reg x = s.reg y ∧ Completed s t (s.pc + 2) fun p => p = .reg x) ∧
    (∃ t, exec (.i8xy1 x y) s = .next t ∧
      (∀ k, k < 8 → (t.reg x).getLsbD k = ((s.reg x).getLsbD k || (s.reg y).getLsbD k)) ∧
      Completed s t (s.pc + 2) fun p => p = .reg x) ∧
    (∃ t, exec (.i8xy2 x y) s = .next t ∧
      (∀ k, k < 8 → (t.reg x).getLsbD k = ((s.reg x).getLsbD k && (s.reg y).getLsbD k)) ∧
      Completed s t (s.pc + 2) fun p => p = .reg x) ∧
    (∃ t, exec (.i8xy3 x y) s = .next t ∧
      (∀ k, k < 8 → (t.reg x).getLsbD k = ((s.reg x).getLsbD k != (s.reg y).getLsbD k)) ∧
      Completed s t (s.pc + 2) fun p => p = .reg x)

/-- 44_alu.md R176: 8xy4 adds modulo 256 and puts the carry into VF, the flag last, so that with x = F the sum is lost. -/
def Obligations.AddWithCarry : Prop :=
  ∀ (x y : Nibble) (s : State),
    ∃ t, exec (.i8xy4 x y) s = .next t ∧
      (x ≠ 15#4 → (t.reg x).toNat = ((s.reg x).toNat + (s.reg y).toNat) % 256) ∧
      (t.reg 15#4).toNat = (if (s.reg x).toNat + (s.reg y).toNat > 255 then 1 else 0) ∧
      Completed s t (s.pc + 2) fun p => p = .reg x ∨ p = .reg 15#4

/-- 44_alu.md R177, R179: 8xy5 computes Vx - Vy and 8xy7 Vy - Vx, modulo 256, into Vx, and the not-borrow goes into VF
last. -/
def Obligations.SubtractWithNotBorrow : Prop :=
  ∀ (x y : Nibble) (s : State),
    (∃ t, exec (.i8xy5 x y) s = .next t ∧
      (x ≠ 15#4 → (t.reg x).toNat = (256 + (s.reg x).toNat - (s.reg y).toNat) % 256) ∧
      (t.reg 15#4).toNat = (if (s.reg x).toNat ≥ (s.reg y).toNat then 1 else 0) ∧
      Completed s t (s.pc + 2) fun p => p = .reg x ∨ p = .reg 15#4) ∧
    (∃ t, exec (.i8xy7 x y) s = .next t ∧
      (x ≠ 15#4 → (t.reg x).toNat = (256 + (s.reg y).toNat - (s.reg x).toNat) % 256) ∧
      (t.reg 15#4).toNat = (if (s.reg y).toNat ≥ (s.reg x).toNat then 1 else 0) ∧
      Completed s t (s.pc + 2) fun p => p = .reg x ∨ p = .reg 15#4)

/-- 44_alu.md R178, R180 (decision D9): 8xy6 and 8xyE shift Vx, or Vy with `SHIFT_USES_VY`, by one bit into Vx; the dropped
bit goes into VF last. -/
def Obligations.ShiftsDropABit : Prop :=
  ∀ (x y : Nibble) (s : State) (v : Byte), v = (if s.cfg.shiftUsesVy = true then s.reg y else s.reg x) →
    (∃ t, exec (.i8xy6 x y) s = .next t ∧ (x ≠ 15#4 → (t.reg x).toNat = v.toNat / 2) ∧
      (t.reg 15#4).toNat = v.toNat % 2 ∧ Completed s t (s.pc + 2) fun p => p = .reg x ∨ p = .reg 15#4) ∧
    (∃ t, exec (.i8xyE x y) s = .next t ∧ (x ≠ 15#4 → (t.reg x).toNat = v.toNat * 2 % 256) ∧
      (t.reg 15#4).toNat = v.toNat / 128 ∧ Completed s t (s.pc + 2) fun p => p = .reg x ∨ p = .reg 15#4)

/-- 10_state.md R24: what each of the six flag-writing instructions leaves in VF when it completes, 0x00 or 0x01 exactly,
that no other instruction touches VF unless VF is an ordinary destination of it (R23), and its value at reset. -/
def Obligations.FlagTable : Prop :=
  (∀ s : State, s.hostReset.reg 15#4 = 0) ∧
  ∀ (s t : State), t.result = some .ok →
    (∀ x y, exec (.i8xy4 x y) s = .next t → t.reg 15#4 = if (s.reg x).toNat + (s.reg y).toNat > 255 then 1 else 0) ∧
    (∀ x y, exec (.i8xy5 x y) s = .next t → t.reg 15#4 = if (s.reg x).toNat ≥ (s.reg y).toNat then 1 else 0) ∧
    (∀ x y, exec (.i8xy7 x y) s = .next t → t.reg 15#4 = if (s.reg y).toNat ≥ (s.reg x).toNat then 1 else 0) ∧
    (∀ x y, exec (.i8xy6 x y) s = .next t →
      t.reg 15#4 = if (if s.cfg.shiftUsesVy = true then s.reg y else s.reg x).getLsbD 0 = true then 1 else 0) ∧
    (∀ x y, exec (.i8xyE x y) s = .next t →
      t.reg 15#4 = if (if s.cfg.shiftUsesVy = true then s.reg y else s.reg x).getLsbD 7 = true then 1 else 0) ∧
    (∀ x y n, exec (.iDxyn x y n) s = .next t →
      (t.reg 15#4 = 0 ∨ t.reg 15#4 = 1) ∧ (t.reg 15#4 = 1 ↔ ∃ r c, s.pixel r c = true ∧ t.pixel r c = false)) ∧
    ∀ i, exec i s = .next t → ¬ writesReg i 15#4 → t.reg 15#4 = s.reg 15#4

/-! ### Index register -/

/-- 43_immediate_and_random.md R164, 48_index_and_memory.md R220, R222 (decisions D19, D24, D25): Annn loads nnn, Fx1E adds
Vx modulo 65536, Fx29 sets 0x50 + 5 * Vx from the whole of Vx; only `I` and `pc` change. -/
def Obligations.IndexRegisterWrites : Prop :=
  (∀ (nnn : Addr12) (s : State),
    ∃ t, exec (.iAnnn nnn) s = .next t ∧ t.I.toNat = nnn.toNat ∧ Completed s t (s.pc + 2) fun p => p = .index) ∧
  ∀ (x : Nibble) (s : State),
    (∃ t, exec (.iFx1E x) s = .next t ∧ t.I.toNat = (s.I.toNat + (s.reg x).toNat) % 65536 ∧
      Completed s t (s.pc + 2) fun p => p = .index) ∧
    (∃ t, exec (.iFx29 x) s = .next t ∧ t.I.toNat = 0x50 + 5 * (s.reg x).toNat ∧
      Completed s t (s.pc + 2) fun p => p = .index)

/-! ### Display -/

/-- 45_display.md R190: 00E0 clears every pixel and sets `REDRAW`; VF, memory and registers stay. -/
def Obligations.ClearScreen : Prop :=
  ∀ s : State,
    ∃ t, exec .i00E0 s = .next t ∧ (∀ r c, t.pixel r c = false) ∧ t.redraw = true ∧
      Completed s t (s.pc + 2) fun p => p = .redraw ∨ ∃ r c, p = .pixel r c

/-- 45_display.md R192 (decisions D22, D23): Dxyn inverts the pixels under the sprite's 1 bits, clipped at the right and
bottom edges, sets VF exactly when a pixel went from 1 to 0, sets `REDRAW` every time, and faults before drawing anything
when its last byte would lie above 4095. -/
def Obligations.DrawSprite : Prop :=
  ∀ (x y n : Nibble) (s : State),
    ((n.toNat = 0 ∨ s.I.toNat + n.toNat - 1 ≤ 4095) →
      ∃ t, exec (.iDxyn x y n) s = .next t ∧
        (∀ r c, t.pixel r c =
          (s.pixel r c ^^ spritePixel s n.toNat ((s.reg x).toNat % 64) ((s.reg y).toNat % 32) r c)) ∧
        (t.reg 15#4 = 0 ∨ t.reg 15#4 = 1) ∧
        (t.reg 15#4 = 1 ↔ ∃ r c, s.pixel r c = true ∧ t.pixel r c = false) ∧
        t.redraw = true ∧
        Completed s t (s.pc + 2) fun p => p = .redraw ∨ p = .reg 15#4 ∨ ∃ r c, p = .pixel r c) ∧
    (0 < n.toNat → 4095 < s.I.toNat + n.toNat - 1 →
      ∃ t, exec (.iDxyn x y n) s = .next t ∧ FaultTaken s t .dataOob s.I)

/-- Drawing the same sprite at the same place twice restores the screen; if no pixel under it was 1 and some 1 bit of it is
on the screen, only the second draw collides (the spec derives it in 45_display.md, "Drawing is its own inverse"). -/
def Obligations.DrawTwiceRestoresScreen : Prop :=
  ∀ (x y n : Nibble) (s t u v : State), exec (.iDxyn x y n) s = .next t → t.result = some .ok →
    u.reg x = s.reg x → u.reg y = s.reg y → u.I = s.I → (∀ a, u.byte a = s.byte a) →
    (∀ r c, u.pixel r c = t.pixel r c) → exec (.iDxyn x y n) u = .next v → v.result = some .ok →
    (∀ r c, v.pixel r c = s.pixel r c) ∧
    ((∀ r c, spritePixel s n.toNat ((s.reg x).toNat % 64) ((s.reg y).toNat % 32) r c = true → s.pixel r c = false) →
      t.reg 15#4 = 0 ∧
      ((∃ r c, spritePixel s n.toNat ((s.reg x).toNat % 64) ((s.reg y).toNat % 32) r c = true) → v.reg 15#4 = 1))

/-! ### Keypad and timers -/

/-- 46_keypad.md R203 (decisions D17, D18): with a key pressed Fx0A stores the index of a pressed key, the lowest with the
default `KEY_SELECT`; with none pressed it is blocked and changes nothing. -/
def Obligations.WaitForKey : Prop :=
  ∀ (x : Nibble) (s : State),
    ((∃ k : Fin 16, s.key[k] = true) →
      ∃ t, exec (.iFx0A x) s = .next t ∧
        (∃ k : Fin 16, s.key[k] = true ∧ (t.reg x).toNat = k.val ∧
          (s.cfg.keySelect = .lowest → ∀ j : Fin 16, j.val < k.val → s.key[j] = false)) ∧
        Completed s t (s.pc + 2) fun p => p = .reg x) ∧
    ((∀ k : Fin 16, s.key[k] = false) →
      ∃ t, exec (.iFx0A x) s = .next t ∧ t.result = some .blocked ∧ Keeps s t fun p => p = .result)

/-- 47_timers.md R210, R211, R212 (decision D28): Fx07 reads DT, Fx15 and Fx18 write the timers, before the tick; over the
whole step, Fx07 still reads the value from before the tick, and the written timer holds Vx - 1, or 0. -/
def Obligations.TimerInstructions : Prop :=
  ∀ (x : Nibble) (s : State),
    (∃ t, exec (.iFx07 x) s = .next t ∧ t.reg x = s.dt ∧ Completed s t (s.pc + 2) fun p => p = .reg x) ∧
    (∃ t, exec (.iFx15 x) s = .next t ∧ t.dt = s.reg x ∧ Completed s t (s.pc + 2) fun p => p = .dt) ∧
    (∃ t, exec (.iFx18 x) s = .next t ∧ t.st = s.reg x ∧ Completed s t (s.pc + 2) fun p => p = .st) ∧
    (s.nextInstr = some (.iFx07 x) → ∃ t, step s = .next t ∧ t.reg x = s.dt ∧ t.dt.toNat = s.dt.toNat - 1) ∧
    (s.nextInstr = some (.iFx15 x) → ∃ t, step s = .next t ∧ t.dt.toNat = (s.reg x).toNat - 1) ∧
    (s.nextInstr = some (.iFx18 x) → ∃ t, step s = .next t ∧ t.st.toNat = (s.reg x).toNat - 1)

/-! ### Memory -/

/-- 48_index_and_memory.md R224 (decisions D21, D23): Fx33 stores the hundreds, tens and units digits of Vx at I, I + 1,
I + 2 and no other byte; out of bounds it faults and stores nothing. Memory in canonical form is the model's invariant. -/
def Obligations.StoreDecimalDigits : Prop :=
  ∀ (x : Nibble) (s : State),
    (s.I.toNat + 2 ≤ 4095 →
      ∃ t, exec (.iFx33 x) s = .next t ∧
        (Memory.wf s.cfg s.mem = true →
          (t.byte s.I.toNat).toNat = (s.reg x).toNat / 100 ∧
          (t.byte (s.I.toNat + 1)).toNat = (s.reg x).toNat / 10 % 10 ∧
          (t.byte (s.I.toNat + 2)).toNat = (s.reg x).toNat % 10) ∧
        Completed s t (s.pc + 2) fun p => ∃ k, k ≤ 2 ∧ p = .byte (s.I.toNat + k)) ∧
    (4095 < s.I.toNat + 2 → ∃ t, exec (.iFx33 x) s = .next t ∧ FaultTaken s t .dataOob s.I)

/-- 48_index_and_memory.md R226 (decisions D20, D23): Fx55 stores V0 to Vx at I to I + x and no other byte, and leaves `I`;
out of bounds it faults and stores nothing. -/
def Obligations.StoreRegisters : Prop :=
  ∀ (x : Nibble) (s : State),
    (s.I.toNat + x.toNat ≤ 4095 →
      ∃ t, exec (.iFx55 x) s = .next t ∧
        (Memory.wf s.cfg s.mem = true →
          ∀ k : Nibble, k.toNat ≤ x.toNat → t.byte (s.I.toNat + k.toNat) = s.reg k) ∧
        Completed s t (s.pc + 2) fun p => ∃ k, k ≤ x.toNat ∧ p = .byte (s.I.toNat + k)) ∧
    (4095 < s.I.toNat + x.toNat → ∃ t, exec (.iFx55 x) s = .next t ∧ FaultTaken s t .dataOob s.I)

/-- 48_index_and_memory.md R228 (decisions D20, D23): Fx65 loads V0 to Vx from I to I + x and leaves `I`, memory and the
registers above Vx; out of bounds it faults and loads nothing. -/
def Obligations.LoadRegisters : Prop :=
  ∀ (x : Nibble) (s : State),
    (s.I.toNat + x.toNat ≤ 4095 →
      ∃ t, exec (.iFx65 x) s = .next t ∧
        (∀ k : Nibble, k.toNat ≤ x.toNat → t.reg k = s.byte (s.I.toNat + k.toNat)) ∧
        Completed s t (s.pc + 2) fun p => ∃ k : Nibble, k.toNat ≤ x.toNat ∧ p = .reg k) ∧
    (4095 < s.I.toNat + x.toNat → ∃ t, exec (.iFx65 x) s = .next t ∧ FaultTaken s t .dataOob s.I)

/-- 20_memory.md R64, R65: the checked one- and two-byte reads and the checked one-byte write, on unbounded addresses; the
write changes exactly its byte. Memory in canonical form is the model's invariant. -/
def Obligations.CheckedMemoryAccess : Prop :=
  ∀ (s : State) (addr : Nat),
    (4095 < addr → s.memRead addr 1 = none ∧ ∀ v, s.memWrite addr [v] = none) ∧
    (addr ≤ 4095 → s.memRead addr 1 = some [s.byte addr]) ∧
    (4095 < addr + 1 → s.memRead addr 2 = none) ∧
    (addr + 1 ≤ 4095 → s.memRead addr 2 = some [s.byte addr, s.byte (addr + 1)]) ∧
    (addr ≤ 4095 → ∀ v, ∃ t, s.memWrite addr [v] = some t ∧
      (Memory.wf s.cfg s.mem = true → t.byte addr = v) ∧ Keeps s t fun p => p = .byte addr)

/-- Two memories in canonical form that read the same at every address are the same list (the model's representation,
log 8). -/
def Obligations.CanonicalMemoriesAreEqual : Prop :=
  ∀ (cfg : Config) (m k : Memory), Memory.wf cfg m = true → Memory.wf cfg k = true →
    (∀ a, a < 4096 → Memory.read cfg m a = Memory.read cfg k a) → m = k

/-- Bytes stored by Fx55 are what the next fetch at their address reads (20_memory.md, "Instruction fetch and
self-modifying code"). -/
def Obligations.StoredBytesAreFetched : Prop :=
  ∀ (x k : Nibble) (s t u : State), Memory.wf s.cfg s.mem = true → exec (.iFx55 x) s = .next t →
    t.result = some .ok → k.toNat + 1 ≤ x.toNat → (∀ a, u.byte a = t.byte a) → u.pc.toNat = s.I.toNat + k.toNat →
    u.fetch = some (wordOf (s.reg k) (s.reg (k + 1)))

/-! ### Whole-machine rules -/

/-- 60_exceptions.md R243, R244 (decisions D4, D5, D7): a fault, raised by an instruction or by the fetch, writes the four
fault registers and changes nothing else. -/
def Obligations.FaultsArePrecise : Prop :=
  (∀ (i : Instr) (s t : State) (c : Cause) (info : Word), exec i s = .next t → t.result = some (.fault c info) →
    FaultTaken s t c info) ∧
  ∀ (s t : State) (c : Cause) (info : Word), s.fault = false → step s = .next t → t.result = some (.fault c info) →
    FaultTaken (s.setRndIn none) t c info

/-- 60_exceptions.md R241 (decision D5): which fault each instruction raises and when, what `CAUSE`, `EPC` and `EINFO`
record, the fetch's fault, the values without a fault, and the codes; nothing else raises a fault. -/
def Obligations.FaultTable : Prop :=
  (∀ (i : Instr) (s t : State) (c : Cause) (info : Word), exec i s = .next t →
    (t.result = some (.fault c info) ↔ faultOf s i = some (c, info)) ∧
    (t.result = some (.fault c info) → t.cause = c ∧ t.epc = s.pc ∧ t.einfo = info)) ∧
  (∀ (s t : State) (c : Cause) (info : Word), s.fault = false → step s = .next t →
    (t.result = some (.fault c info) ↔
      (4095 < s.pc.toNat + 1 ∧ c = .fetchOob ∧ info = s.pc) ∨
      ∃ i, s.nextInstr = some i ∧ faultOf s i = some (c, info)) ∧
    (t.result = some (.fault c info) → t.cause = c ∧ t.epc = s.pc ∧ t.einfo = info)) ∧
  (∀ s : State, Invariant s → s.fault = false → s.cause = .none ∧ s.einfo = 0) ∧
  Cause.none.code = 0 ∧ Cause.fetchOob.code = 1 ∧ Cause.dataOob.code = 2 ∧ Cause.stackOverflow.code = 3 ∧
  Cause.stackUnderflow.code = 4 ∧ Cause.keyOob.code = 5

/-- An instruction's answer is blocked exactly for Fx0A with no key pressed, and every answer is a completion, a block or a
fault: no instruction reports an unrecognised word (40_step_cycle.md, "The operation"). -/
def Obligations.OnlyKeyWaitBlocks : Prop :=
  ∀ (i : Instr) (s : State),
    ∃ t, exec i s = .next t ∧
      (t.result = some .blocked ↔ (∃ x, i = .iFx0A x) ∧ ∀ k : Fin 16, s.key[k] = false) ∧
      (t.result = some .ok ∨ t.result = some .blocked ∨ ∃ c info, t.result = some (.fault c info))

/-- No instruction changes a place of the state outside the column "written by" of the state table (10_state.md, "The whole
state at a glance" and "General registers", whose columns the table `mayWrite` repeats). -/
def Obligations.OnlyListedWritersChangeAPlace : Prop :=
  ∀ (i : Instr) (s t : State) (p : Part), exec i s = .next t → ¬ mayWrite i p → Same p s t

/-- The random byte is read by Cxnn only: every other instruction does the same whatever the byte is and whichever free
byte is next, and `Step(r)` of a state in which no Cxnn is next is the step itself, the same for every r
(43_immediate_and_random.md, rule of Cxnn: "only Cxnn reads"; the two fields that hold the input are the model's, log 5). -/
def Obligations.OnlyCxnnReadsRandomByte : Prop :=
  (∀ (i : Instr) (s : State) (r : Option Byte) (d : Nat), (∀ x nn, i ≠ .iCxnn x nn) →
    exec i { s with rndIn := r, draws := d } = mapNext (fun t => { t with rndIn := r, draws := d }) (exec i s)) ∧
  ∀ (s : State) (r : Byte), (∀ x nn, s.nextInstr ≠ some (.iCxnn x nn)) → (HostOp.step r).apply s = step s

/-- 10_state.md, "Timers and the redraw flag" and "Fault registers", with the summary of the special registers: no program
reads `ST`, `REDRAW` or the fault registers. Wiping them before an instruction changes nothing that is left after wiping
them again. The result of the last step, wiped with them, is the model's field for the output ports (log 6). -/
def Obligations.ProgramsCannotSeeOutputs : Prop :=
  ∀ (i : Instr) (s : State),
    mapNext State.hideOutputs (exec i s.hideOutputs) = mapNext State.hideOutputs (exec i s)

/-! ### The host's operations -/

/-- 60_exceptions.md R260: `SetKey` sets the key's state, ignores an index of 16 or more, and changes nothing else. -/
def Obligations.SetKeyWritesOneKey : Prop :=
  ∀ (s : State) (index : Byte) (pressed : Bool),
    (∀ h : index.toNat < 16, ∃ t, (HostOp.setKey index pressed).apply s = .next t ∧ t.key[index.toNat] = pressed ∧
      Keeps s t fun p => p = .key ⟨index.toNat, h⟩) ∧
    (16 ≤ index.toNat → (HostOp.setKey index pressed).apply s = .next s)

/-- 60_exceptions.md R261, R262 (decisions D22, D35, D41): `ClearRedraw` clears the flag and nothing else; the framebuffer
port returns the pixel of row a div 64 and column a mod 64. -/
def Obligations.ClearRedrawAndFramebufferRead : Prop :=
  ∀ s : State,
    (∃ t, HostOp.clearRedraw.apply s = .next t ∧ t.redraw = false ∧ Keeps s t fun p => p = .redraw) ∧
    ∀ (a : BitVec 11) (r : Fin 32) (c : Fin 64), r.val = a.toNat / 64 → c.val = a.toNat % 64 →
      s.readPixel a = s.pixel r c

/-- 70_reset_and_hazards.md R286, R287 (decision D31): a program of at most 3584 bytes is copied to 0x200 on and nothing
else changes; a longer one is refused whole. -/
def Obligations.LoadProgramIsAtomic : Prop :=
  ∀ (s : State) (bytes : List Byte),
    (bytes.length ≤ 4096 - 0x200 →
      (s.loadProgram bytes).1 = .ok ∧
      (Memory.wf s.cfg s.mem = true →
        ∀ k (h : k < bytes.length), (s.loadProgram bytes).2.byte (0x200 + k) = bytes[k]) ∧
      Keeps s (s.loadProgram bytes).2 fun p => ∃ k, k < bytes.length ∧ p = .byte (0x200 + k)) ∧
    (4096 - 0x200 < bytes.length → s.loadProgram bytes = (.capacityExceeded, s))

/-- Only `Reset` ends the halt: after any other operation a halted core is halted with the same fault, and its state is
untouched but for the flag that `ClearRedraw` clears, the one key that `SetKey` writes, the bytes that `LoadProgram`
writes, and, over a `Step`, the result port and the used-up input (log 5, log 6); `Reset` clears the four registers
(60_exceptions.md, "Interrupts, trap return, delegation"). -/
def Obligations.OnlyResetEndsTheHalt : Prop :=
  (∀ (op : HostOp) (s t : State), s.fault = true → op ≠ .reset → op.apply s = .next t →
    t.fault = true ∧
    Keeps s t fun p =>
      (op = .clearRedraw ∧ p = .redraw) ∨
      (∃ index pressed k, op = .setKey index pressed ∧ k.val = index.toNat ∧ p = .key k) ∨
      (∃ bytes a, op = .loadProgram bytes ∧ 0x200 ≤ a ∧ a < 0x200 + bytes.length ∧ p = .byte a) ∨
      (∃ rnd, op = .step rnd ∧ (p = .result ∨ p = .rndIn))) ∧
  ∀ s : State, ∃ t, HostOp.reset.apply s = .next t ∧ t.fault = false ∧ t.cause = .none ∧ t.epc = 0 ∧ t.einfo = 0

/-- At the signals, a load of 1 to 3584 bytes, `ld_start` and then one `ld_valid` for each byte, is `LoadProgram` of those
bytes, with `ld_done` in its last cycle and no pulse before; a longer one is answered `ld_err`, the core stays, and no byte
is accepted; one of length 0 is complete at once and changes nothing; `rst` abandons a load in progress with nothing of it
kept, and wins over every other request (60_exceptions.md, "The host interface"; 70_reset_and_hazards.md, "Boot" and
"Reset"). That a load of length 0 answers `ld_done`, and that a byte with no load in progress is no move of the host, is the
model's (log 13). -/
def Obligations.SignalLoadIsLoadProgram : Prop :=
  (∀ (s : State) (v : Byte) (bytes : List Byte), (v :: bytes).length ≤ 3584 →
    Board.run ({ ldStart := true, ldLen := BitVec.ofNat 16 (v :: bytes).length } ::
        (v :: bytes).map fun b => { ldValid := true, ldData := b }) ⟨s, none⟩ =
      some (⟨(s.loadProgram (v :: bytes)).2, none⟩, List.replicate (bytes.length + 1) ({} : Pulses) ++ [{ ldDone := true }])) ∧
  (∀ (s : State) (len : Word), 3584 < len.toNat →
    Board.clock { ldStart := true, ldLen := len } ⟨s, none⟩ = some (⟨s, none⟩, { ldErr := true }) ∧
    ∀ b : Byte, Board.clock { ldValid := true, ldData := b } ⟨s, none⟩ = none) ∧
  (∀ s : State,
    Board.clock { ldStart := true, ldLen := 0 } ⟨s, none⟩ = some (⟨(s.loadProgram []).2, none⟩, { ldDone := true }) ∧
    s.loadProgram [] = (.ok, s)) ∧
  ∀ (p : Pins) (b : Board), p.rst = true → Board.clock p b = some (⟨b.core.hostReset, none⟩, {})

/-- At the signals, with no load in progress, one of the requests `step`, `key_we`, `redraw_clr` is the operation of the
host with the values on its pins, with `done` for a step, and a cycle with no request changes nothing (60_exceptions.md,
"The host interface"; a step is done in its own cycle, log 14). -/
def Obligations.SignalRequestsAreOperations : Prop :=
  ∀ s t : State,
    (∀ r, (HostOp.step r).apply s = .next t →
      Board.clock { step := true, rnd := r } ⟨s, none⟩ = some (⟨t, none⟩, { done := true })) ∧
    (∀ index pressed, (HostOp.setKey index pressed).apply s = .next t →
      Board.clock { keyWe := true, keyIdx := index, keyVal := pressed } ⟨s, none⟩ = some (⟨t, none⟩, {})) ∧
    (HostOp.clearRedraw.apply s = .next t → Board.clock { redrawClr := true } ⟨s, none⟩ = some (⟨t, none⟩, {})) ∧
    Board.clock {} ⟨s, none⟩ = some (⟨s, none⟩, {})
end

