-- ==== Sys2Proof/Laws/Encoding.lean ====
section
/-! SUPPORT. The fields of a word built from its parts (spec/30_encoding.md R91, R92): one lemma for each format and field,
and the mask of a format. -/

namespace Sys2Proof

/-- The word of the formats `XY` and `XYN`. -/
abbrev wordXYN (a x y n : Nibble) : Word := a ++ x ++ y ++ n

/-- The word of the formats `XNN` and `X`. -/
abbrev wordXNN (a x : Nibble) (nn : Byte) : Word := a ++ x ++ nn

/-- The word of the format `NNN`. -/
abbrev wordNNN (a : Nibble) (nnn : Addr12) : Word := a ++ nnn

/-- Bits of the upper part of an appended pair. -/
theorem extract_upper {v w : Nat} (a : BitVec v) (b : BitVec w) (k len : Nat) :
    (a ++ b).extractLsb' (w + k) len = a.extractLsb' k len := by
  rw [BitVec.extractLsb'_append_eq_of_le (by omega), Nat.add_sub_cancel_left]

/-- Bits of the lower part of an appended pair. -/
theorem extract_lower {v w : Nat} (a : BitVec v) (b : BitVec w) : (a ++ b).extractLsb' 0 w = b := by
  rw [BitVec.extractLsb'_append_eq_of_add_le (by omega), BitVec.extractLsb'_eq_self]

theorem opTop_wordXYN (a x y n : Nibble) : opTop (wordXYN a x y n) = a :=
  (extract_upper (a ++ x ++ y) n 8 4).trans ((extract_upper (a ++ x) y 4 4).trans
    ((extract_upper a x 0 4).trans BitVec.extractLsb'_eq_self))

theorem opX_wordXYN (a x y n : Nibble) : opX (wordXYN a x y n) = x :=
  (extract_upper (a ++ x ++ y) n 4 4).trans ((extract_upper (a ++ x) y 0 4).trans (extract_lower a x))

theorem opY_wordXYN (a x y n : Nibble) : opY (wordXYN a x y n) = y :=
  (extract_upper (a ++ x ++ y) n 0 4).trans (extract_lower (a ++ x) y)

theorem opN_wordXYN (a x y n : Nibble) : opN (wordXYN a x y n) = n := extract_lower (a ++ x ++ y) n

theorem opTop_wordXNN (a x : Nibble) (nn : Byte) : opTop (wordXNN a x nn) = a :=
  (extract_upper (a ++ x) nn 4 4).trans ((extract_upper a x 0 4).trans BitVec.extractLsb'_eq_self)

theorem opX_wordXNN (a x : Nibble) (nn : Byte) : opX (wordXNN a x nn) = x :=
  (extract_upper (a ++ x) nn 0 4).trans (extract_lower a x)

theorem opNN_wordXNN (a x : Nibble) (nn : Byte) : opNN (wordXNN a x nn) = nn := extract_lower (a ++ x) nn

theorem opTop_wordNNN (a : Nibble) (nnn : Addr12) : opTop (wordNNN a nnn) = a :=
  (extract_upper a nnn 0 4).trans BitVec.extractLsb'_eq_self

theorem opNNN_wordNNN (a : Nibble) (nnn : Addr12) : opNNN (wordNNN a nnn) = nnn := extract_lower a nnn

/-- AND with a mask, part by part. -/
theorem append_and {v w : Nat} (a m : BitVec v) (b k : BitVec w) : (a ++ b) &&& (m ++ k) = (a &&& m) ++ (b &&& k) :=
  BitVec.and_append

theorem nibble_and_F (a : Nibble) : a &&& 0xF#4 = a := BitVec.and_allOnes

/-- The mask of format `XY` keeps the top and the low nibble. -/
theorem wordXYN_and_mask (a x y n : Nibble) : wordXYN a x y n &&& 0xF00F = wordXYN a 0 0 n :=
  calc wordXYN a x y n &&& 0xF00F
    _ = (a &&& 0xF#4) ++ (x &&& 0#4) ++ (y &&& 0#4) ++ (n &&& 0xF#4) := by
      rw [← append_and, ← append_and, ← append_and]; rfl
    _ = wordXYN a 0 0 n := by rw [nibble_and_F, nibble_and_F, BitVec.and_zero, BitVec.and_zero]; rfl

/-- The mask of format `XYN` keeps the top nibble. -/
theorem wordXYN_and_top (a x y n : Nibble) : wordXYN a x y n &&& 0xF000 = wordXYN a 0 0 0 :=
  calc wordXYN a x y n &&& 0xF000
    _ = (a &&& 0xF#4) ++ (x &&& 0#4) ++ (y &&& 0#4) ++ (n &&& 0#4) := by
      rw [← append_and, ← append_and, ← append_and]; rfl
    _ = wordXYN a 0 0 0 := by rw [nibble_and_F, BitVec.and_zero, BitVec.and_zero, BitVec.and_zero]; rfl

/-- The mask of format `X` keeps the top nibble and the low byte. -/
theorem wordXNN_and_mask (a x : Nibble) (nn : Byte) : wordXNN a x nn &&& 0xF0FF = wordXNN a 0 nn :=
  calc wordXNN a x nn &&& 0xF0FF
    _ = (a &&& 0xF#4) ++ (x &&& 0#4) ++ (nn &&& BitVec.allOnes 8) := by rw [← append_and, ← append_and]; rfl
    _ = wordXNN a 0 nn := by rw [nibble_and_F, BitVec.and_zero, BitVec.and_allOnes]; rfl

/-- The mask of format `XNN` keeps the top nibble. -/
theorem wordXNN_and_top (a x : Nibble) (nn : Byte) : wordXNN a x nn &&& 0xF000 = wordXNN a 0 0 :=
  calc wordXNN a x nn &&& 0xF000
    _ = (a &&& 0xF#4) ++ (x &&& 0#4) ++ (nn &&& 0#8) := by rw [← append_and, ← append_and]; rfl
    _ = wordXNN a 0 0 := by rw [nibble_and_F, BitVec.and_zero, BitVec.and_zero]; rfl

/-- The mask of format `NNN` keeps the top nibble. -/
theorem wordNNN_and_top (a : Nibble) (nnn : Addr12) : wordNNN a nnn &&& 0xF000 = wordNNN a 0 :=
  calc wordNNN a nnn &&& 0xF000
    _ = (a &&& 0xF#4) ++ (nnn &&& 0#12) := by rw [← append_and]; rfl
    _ = wordNNN a 0 := by rw [nibble_and_F, BitVec.and_zero]; rfl

/-- A word is its four nibbles (R91). -/
theorem word_eq_nibbles (op : Word) : op = wordXYN (opTop op) (opX op) (opY op) (opN op) := by
  apply BitVec.eq_of_getLsbD_eq
  intro i hi
  show _ = (opTop op ++ opX op ++ opY op ++ opN op : BitVec (4 + 4 + 4 + 4)).getLsbD i
  simp only [opTop, opX, opY, opN, BitVec.getLsbD_append, BitVec.getLsbD_extractLsb']
  by_cases h1 : i < 4
  · simp [h1]
  · by_cases h2 : i - 4 < 4
    · simp [h1, h2, show 4 + (i - 4) = i by omega]
    · by_cases h3 : i - 4 - 4 < 4
      · simp [h1, h2, h3, show 8 + (i - 4 - 4) = i by omega]
      · simp [h1, h2, h3, show i - 4 - 4 - 4 < 4 by omega, show 12 + (i - 4 - 4 - 4) = i by omega]

/-- The low byte of a word is its two low nibbles. -/
theorem opNN_eq_nibbles (op : Word) : opNN op = (opY op ++ opN op : BitVec (4 + 4)) := by
  apply BitVec.eq_of_getLsbD_eq
  intro i hi
  show _ = (opY op ++ opN op : BitVec (4 + 4)).getLsbD i
  simp only [opNN, opY, opN, BitVec.getLsbD_append, BitVec.getLsbD_extractLsb']
  by_cases h1 : i < 4
  · simp [h1, hi]
  · simp [h1, hi, show i - 4 < 4 by omega, show 4 + (i - 4) = i by omega]

/-- The high and the low byte of a word give the word back (20_memory.md R62). -/
theorem wordOf_bytes (op : Word) : wordOf (highByte op) (lowByte op) = op := by
  apply BitVec.eq_of_getLsbD_eq
  intro i hi
  show (highByte op ++ lowByte op : BitVec (8 + 8)).getLsbD i = _
  simp only [highByte, lowByte, BitVec.getLsbD_append, BitVec.getLsbD_extractLsb']
  by_cases h1 : i < 8
  · simp [h1]
  · simp [h1, show i - 8 < 8 by omega, show 8 + (i - 8) = i by omega]

end Sys2Proof
end

