-- ==== Sys2Proof/Laws/State.lean ====
section
/-! SUPPORT. For each update of the state and each field or read, one lemma, true by unfolding: proofs rewrite with these
and never unfold a record update. -/

namespace Sys2Proof.Machine

variable (s : State)

/-! ### setReg -/

@[simp] theorem State.setReg_mem (x : Nibble) (v : Byte) : (s.setReg x v).mem = s.mem := rfl
@[simp] theorem State.setReg_V (x : Nibble) (v : Byte) : (s.setReg x v).V = s.V.set x.toNat v x.isLt := rfl
@[simp] theorem State.setReg_I (x : Nibble) (v : Byte) : (s.setReg x v).I = s.I := rfl
@[simp] theorem State.setReg_pc (x : Nibble) (v : Byte) : (s.setReg x v).pc = s.pc := rfl
@[simp] theorem State.setReg_stack (x : Nibble) (v : Byte) : (s.setReg x v).stack = s.stack := rfl
@[simp] theorem State.setReg_sp (x : Nibble) (v : Byte) : (s.setReg x v).sp = s.sp := rfl
@[simp] theorem State.setReg_fb (x : Nibble) (v : Byte) : (s.setReg x v).fb = s.fb := rfl
@[simp] theorem State.setReg_key (x : Nibble) (v : Byte) : (s.setReg x v).key = s.key := rfl
@[simp] theorem State.setReg_dt (x : Nibble) (v : Byte) : (s.setReg x v).dt = s.dt := rfl
@[simp] theorem State.setReg_st (x : Nibble) (v : Byte) : (s.setReg x v).st = s.st := rfl
@[simp] theorem State.setReg_redraw (x : Nibble) (v : Byte) : (s.setReg x v).redraw = s.redraw := rfl
@[simp] theorem State.setReg_fault (x : Nibble) (v : Byte) : (s.setReg x v).fault = s.fault := rfl
@[simp] theorem State.setReg_cause (x : Nibble) (v : Byte) : (s.setReg x v).cause = s.cause := rfl
@[simp] theorem State.setReg_epc (x : Nibble) (v : Byte) : (s.setReg x v).epc = s.epc := rfl
@[simp] theorem State.setReg_einfo (x : Nibble) (v : Byte) : (s.setReg x v).einfo = s.einfo := rfl
@[simp] theorem State.setReg_cfg (x : Nibble) (v : Byte) : (s.setReg x v).cfg = s.cfg := rfl
@[simp] theorem State.setReg_rndIn (x : Nibble) (v : Byte) : (s.setReg x v).rndIn = s.rndIn := rfl
@[simp] theorem State.setReg_draws (x : Nibble) (v : Byte) : (s.setReg x v).draws = s.draws := rfl
@[simp] theorem State.setReg_result (x : Nibble) (v : Byte) : (s.setReg x v).result = s.result := rfl
@[simp] theorem State.setReg_byte (x : Nibble) (v : Byte) (d : Nat) : (s.setReg x v).byte d = s.byte d := rfl
@[simp] theorem State.setReg_pixel (x : Nibble) (v : Byte) (p : Fin 32) (q : Fin 64) : (s.setReg x v).pixel p q = s.pixel p q := rfl

/-! ### setRegs -/

@[simp] theorem State.setRegs_mem (bs : List Byte) : (s.setRegs bs).mem = s.mem := rfl
@[simp] theorem State.setRegs_V (bs : List Byte) : (s.setRegs bs).V = Vector.ofFn fun k => (bs[k.val]?).getD s.V[k] := rfl
@[simp] theorem State.setRegs_I (bs : List Byte) : (s.setRegs bs).I = s.I := rfl
@[simp] theorem State.setRegs_pc (bs : List Byte) : (s.setRegs bs).pc = s.pc := rfl
@[simp] theorem State.setRegs_stack (bs : List Byte) : (s.setRegs bs).stack = s.stack := rfl
@[simp] theorem State.setRegs_sp (bs : List Byte) : (s.setRegs bs).sp = s.sp := rfl
@[simp] theorem State.setRegs_fb (bs : List Byte) : (s.setRegs bs).fb = s.fb := rfl
@[simp] theorem State.setRegs_key (bs : List Byte) : (s.setRegs bs).key = s.key := rfl
@[simp] theorem State.setRegs_dt (bs : List Byte) : (s.setRegs bs).dt = s.dt := rfl
@[simp] theorem State.setRegs_st (bs : List Byte) : (s.setRegs bs).st = s.st := rfl
@[simp] theorem State.setRegs_redraw (bs : List Byte) : (s.setRegs bs).redraw = s.redraw := rfl
@[simp] theorem State.setRegs_fault (bs : List Byte) : (s.setRegs bs).fault = s.fault := rfl
@[simp] theorem State.setRegs_cause (bs : List Byte) : (s.setRegs bs).cause = s.cause := rfl
@[simp] theorem State.setRegs_epc (bs : List Byte) : (s.setRegs bs).epc = s.epc := rfl
@[simp] theorem State.setRegs_einfo (bs : List Byte) : (s.setRegs bs).einfo = s.einfo := rfl
@[simp] theorem State.setRegs_cfg (bs : List Byte) : (s.setRegs bs).cfg = s.cfg := rfl
@[simp] theorem State.setRegs_rndIn (bs : List Byte) : (s.setRegs bs).rndIn = s.rndIn := rfl
@[simp] theorem State.setRegs_draws (bs : List Byte) : (s.setRegs bs).draws = s.draws := rfl
@[simp] theorem State.setRegs_result (bs : List Byte) : (s.setRegs bs).result = s.result := rfl
@[simp] theorem State.setRegs_byte (bs : List Byte) (d : Nat) : (s.setRegs bs).byte d = s.byte d := rfl
@[simp] theorem State.setRegs_pixel (bs : List Byte) (p : Fin 32) (q : Fin 64) : (s.setRegs bs).pixel p q = s.pixel p q := rfl

/-! ### setIndex -/

@[simp] theorem State.setIndex_mem (v : Word) : (s.setIndex v).mem = s.mem := rfl
@[simp] theorem State.setIndex_V (v : Word) : (s.setIndex v).V = s.V := rfl
@[simp] theorem State.setIndex_I (v : Word) : (s.setIndex v).I = v := rfl
@[simp] theorem State.setIndex_pc (v : Word) : (s.setIndex v).pc = s.pc := rfl
@[simp] theorem State.setIndex_stack (v : Word) : (s.setIndex v).stack = s.stack := rfl
@[simp] theorem State.setIndex_sp (v : Word) : (s.setIndex v).sp = s.sp := rfl
@[simp] theorem State.setIndex_fb (v : Word) : (s.setIndex v).fb = s.fb := rfl
@[simp] theorem State.setIndex_key (v : Word) : (s.setIndex v).key = s.key := rfl
@[simp] theorem State.setIndex_dt (v : Word) : (s.setIndex v).dt = s.dt := rfl
@[simp] theorem State.setIndex_st (v : Word) : (s.setIndex v).st = s.st := rfl
@[simp] theorem State.setIndex_redraw (v : Word) : (s.setIndex v).redraw = s.redraw := rfl
@[simp] theorem State.setIndex_fault (v : Word) : (s.setIndex v).fault = s.fault := rfl
@[simp] theorem State.setIndex_cause (v : Word) : (s.setIndex v).cause = s.cause := rfl
@[simp] theorem State.setIndex_epc (v : Word) : (s.setIndex v).epc = s.epc := rfl
@[simp] theorem State.setIndex_einfo (v : Word) : (s.setIndex v).einfo = s.einfo := rfl
@[simp] theorem State.setIndex_cfg (v : Word) : (s.setIndex v).cfg = s.cfg := rfl
@[simp] theorem State.setIndex_rndIn (v : Word) : (s.setIndex v).rndIn = s.rndIn := rfl
@[simp] theorem State.setIndex_draws (v : Word) : (s.setIndex v).draws = s.draws := rfl
@[simp] theorem State.setIndex_result (v : Word) : (s.setIndex v).result = s.result := rfl
@[simp] theorem State.setIndex_reg (v : Word) (y : Nibble) : (s.setIndex v).reg y = s.reg y := rfl
@[simp] theorem State.setIndex_byte (v : Word) (d : Nat) : (s.setIndex v).byte d = s.byte d := rfl
@[simp] theorem State.setIndex_pixel (v : Word) (p : Fin 32) (q : Fin 64) : (s.setIndex v).pixel p q = s.pixel p q := rfl

/-! ### setPc -/

@[simp] theorem State.setPc_mem (v : Word) : (s.setPc v).mem = s.mem := rfl
@[simp] theorem State.setPc_V (v : Word) : (s.setPc v).V = s.V := rfl
@[simp] theorem State.setPc_I (v : Word) : (s.setPc v).I = s.I := rfl
@[simp] theorem State.setPc_pc (v : Word) : (s.setPc v).pc = v := rfl
@[simp] theorem State.setPc_stack (v : Word) : (s.setPc v).stack = s.stack := rfl
@[simp] theorem State.setPc_sp (v : Word) : (s.setPc v).sp = s.sp := rfl
@[simp] theorem State.setPc_fb (v : Word) : (s.setPc v).fb = s.fb := rfl
@[simp] theorem State.setPc_key (v : Word) : (s.setPc v).key = s.key := rfl
@[simp] theorem State.setPc_dt (v : Word) : (s.setPc v).dt = s.dt := rfl
@[simp] theorem State.setPc_st (v : Word) : (s.setPc v).st = s.st := rfl
@[simp] theorem State.setPc_redraw (v : Word) : (s.setPc v).redraw = s.redraw := rfl
@[simp] theorem State.setPc_fault (v : Word) : (s.setPc v).fault = s.fault := rfl
@[simp] theorem State.setPc_cause (v : Word) : (s.setPc v).cause = s.cause := rfl
@[simp] theorem State.setPc_epc (v : Word) : (s.setPc v).epc = s.epc := rfl
@[simp] theorem State.setPc_einfo (v : Word) : (s.setPc v).einfo = s.einfo := rfl
@[simp] theorem State.setPc_cfg (v : Word) : (s.setPc v).cfg = s.cfg := rfl
@[simp] theorem State.setPc_rndIn (v : Word) : (s.setPc v).rndIn = s.rndIn := rfl
@[simp] theorem State.setPc_draws (v : Word) : (s.setPc v).draws = s.draws := rfl
@[simp] theorem State.setPc_result (v : Word) : (s.setPc v).result = s.result := rfl
@[simp] theorem State.setPc_reg (v : Word) (y : Nibble) : (s.setPc v).reg y = s.reg y := rfl
@[simp] theorem State.setPc_byte (v : Word) (d : Nat) : (s.setPc v).byte d = s.byte d := rfl
@[simp] theorem State.setPc_pixel (v : Word) (p : Fin 32) (q : Fin 64) : (s.setPc v).pixel p q = s.pixel p q := rfl

/-! ### setByte -/

@[simp] theorem State.setByte_mem (a : Nat) (v : Byte) : (s.setByte a v).mem = Memory.write s.cfg s.mem a v := rfl
@[simp] theorem State.setByte_V (a : Nat) (v : Byte) : (s.setByte a v).V = s.V := rfl
@[simp] theorem State.setByte_I (a : Nat) (v : Byte) : (s.setByte a v).I = s.I := rfl
@[simp] theorem State.setByte_pc (a : Nat) (v : Byte) : (s.setByte a v).pc = s.pc := rfl
@[simp] theorem State.setByte_stack (a : Nat) (v : Byte) : (s.setByte a v).stack = s.stack := rfl
@[simp] theorem State.setByte_sp (a : Nat) (v : Byte) : (s.setByte a v).sp = s.sp := rfl
@[simp] theorem State.setByte_fb (a : Nat) (v : Byte) : (s.setByte a v).fb = s.fb := rfl
@[simp] theorem State.setByte_key (a : Nat) (v : Byte) : (s.setByte a v).key = s.key := rfl
@[simp] theorem State.setByte_dt (a : Nat) (v : Byte) : (s.setByte a v).dt = s.dt := rfl
@[simp] theorem State.setByte_st (a : Nat) (v : Byte) : (s.setByte a v).st = s.st := rfl
@[simp] theorem State.setByte_redraw (a : Nat) (v : Byte) : (s.setByte a v).redraw = s.redraw := rfl
@[simp] theorem State.setByte_fault (a : Nat) (v : Byte) : (s.setByte a v).fault = s.fault := rfl
@[simp] theorem State.setByte_cause (a : Nat) (v : Byte) : (s.setByte a v).cause = s.cause := rfl
@[simp] theorem State.setByte_epc (a : Nat) (v : Byte) : (s.setByte a v).epc = s.epc := rfl
@[simp] theorem State.setByte_einfo (a : Nat) (v : Byte) : (s.setByte a v).einfo = s.einfo := rfl
@[simp] theorem State.setByte_cfg (a : Nat) (v : Byte) : (s.setByte a v).cfg = s.cfg := rfl
@[simp] theorem State.setByte_rndIn (a : Nat) (v : Byte) : (s.setByte a v).rndIn = s.rndIn := rfl
@[simp] theorem State.setByte_draws (a : Nat) (v : Byte) : (s.setByte a v).draws = s.draws := rfl
@[simp] theorem State.setByte_result (a : Nat) (v : Byte) : (s.setByte a v).result = s.result := rfl
@[simp] theorem State.setByte_reg (a : Nat) (v : Byte) (y : Nibble) : (s.setByte a v).reg y = s.reg y := rfl
@[simp] theorem State.setByte_pixel (a : Nat) (v : Byte) (p : Fin 32) (q : Fin 64) : (s.setByte a v).pixel p q = s.pixel p q := rfl

/-! ### setScreen -/

@[simp] theorem State.setScreen_mem (g : Vector PixelRow 32) : (s.setScreen g).mem = s.mem := rfl
@[simp] theorem State.setScreen_V (g : Vector PixelRow 32) : (s.setScreen g).V = s.V := rfl
@[simp] theorem State.setScreen_I (g : Vector PixelRow 32) : (s.setScreen g).I = s.I := rfl
@[simp] theorem State.setScreen_pc (g : Vector PixelRow 32) : (s.setScreen g).pc = s.pc := rfl
@[simp] theorem State.setScreen_stack (g : Vector PixelRow 32) : (s.setScreen g).stack = s.stack := rfl
@[simp] theorem State.setScreen_sp (g : Vector PixelRow 32) : (s.setScreen g).sp = s.sp := rfl
@[simp] theorem State.setScreen_fb (g : Vector PixelRow 32) : (s.setScreen g).fb = g := rfl
@[simp] theorem State.setScreen_key (g : Vector PixelRow 32) : (s.setScreen g).key = s.key := rfl
@[simp] theorem State.setScreen_dt (g : Vector PixelRow 32) : (s.setScreen g).dt = s.dt := rfl
@[simp] theorem State.setScreen_st (g : Vector PixelRow 32) : (s.setScreen g).st = s.st := rfl
@[simp] theorem State.setScreen_redraw (g : Vector PixelRow 32) : (s.setScreen g).redraw = true := rfl
@[simp] theorem State.setScreen_fault (g : Vector PixelRow 32) : (s.setScreen g).fault = s.fault := rfl
@[simp] theorem State.setScreen_cause (g : Vector PixelRow 32) : (s.setScreen g).cause = s.cause := rfl
@[simp] theorem State.setScreen_epc (g : Vector PixelRow 32) : (s.setScreen g).epc = s.epc := rfl
@[simp] theorem State.setScreen_einfo (g : Vector PixelRow 32) : (s.setScreen g).einfo = s.einfo := rfl
@[simp] theorem State.setScreen_cfg (g : Vector PixelRow 32) : (s.setScreen g).cfg = s.cfg := rfl
@[simp] theorem State.setScreen_rndIn (g : Vector PixelRow 32) : (s.setScreen g).rndIn = s.rndIn := rfl
@[simp] theorem State.setScreen_draws (g : Vector PixelRow 32) : (s.setScreen g).draws = s.draws := rfl
@[simp] theorem State.setScreen_result (g : Vector PixelRow 32) : (s.setScreen g).result = s.result := rfl
@[simp] theorem State.setScreen_reg (g : Vector PixelRow 32) (y : Nibble) : (s.setScreen g).reg y = s.reg y := rfl
@[simp] theorem State.setScreen_byte (g : Vector PixelRow 32) (d : Nat) : (s.setScreen g).byte d = s.byte d := rfl

/-! ### setRedraw -/

@[simp] theorem State.setRedraw_mem (b : Bool) : (s.setRedraw b).mem = s.mem := rfl
@[simp] theorem State.setRedraw_V (b : Bool) : (s.setRedraw b).V = s.V := rfl
@[simp] theorem State.setRedraw_I (b : Bool) : (s.setRedraw b).I = s.I := rfl
@[simp] theorem State.setRedraw_pc (b : Bool) : (s.setRedraw b).pc = s.pc := rfl
@[simp] theorem State.setRedraw_stack (b : Bool) : (s.setRedraw b).stack = s.stack := rfl
@[simp] theorem State.setRedraw_sp (b : Bool) : (s.setRedraw b).sp = s.sp := rfl
@[simp] theorem State.setRedraw_fb (b : Bool) : (s.setRedraw b).fb = s.fb := rfl
@[simp] theorem State.setRedraw_key (b : Bool) : (s.setRedraw b).key = s.key := rfl
@[simp] theorem State.setRedraw_dt (b : Bool) : (s.setRedraw b).dt = s.dt := rfl
@[simp] theorem State.setRedraw_st (b : Bool) : (s.setRedraw b).st = s.st := rfl
@[simp] theorem State.setRedraw_redraw (b : Bool) : (s.setRedraw b).redraw = b := rfl
@[simp] theorem State.setRedraw_fault (b : Bool) : (s.setRedraw b).fault = s.fault := rfl
@[simp] theorem State.setRedraw_cause (b : Bool) : (s.setRedraw b).cause = s.cause := rfl
@[simp] theorem State.setRedraw_epc (b : Bool) : (s.setRedraw b).epc = s.epc := rfl
@[simp] theorem State.setRedraw_einfo (b : Bool) : (s.setRedraw b).einfo = s.einfo := rfl
@[simp] theorem State.setRedraw_cfg (b : Bool) : (s.setRedraw b).cfg = s.cfg := rfl
@[simp] theorem State.setRedraw_rndIn (b : Bool) : (s.setRedraw b).rndIn = s.rndIn := rfl
@[simp] theorem State.setRedraw_draws (b : Bool) : (s.setRedraw b).draws = s.draws := rfl
@[simp] theorem State.setRedraw_result (b : Bool) : (s.setRedraw b).result = s.result := rfl
@[simp] theorem State.setRedraw_reg (b : Bool) (y : Nibble) : (s.setRedraw b).reg y = s.reg y := rfl
@[simp] theorem State.setRedraw_byte (b : Bool) (d : Nat) : (s.setRedraw b).byte d = s.byte d := rfl
@[simp] theorem State.setRedraw_pixel (b : Bool) (p : Fin 32) (q : Fin 64) : (s.setRedraw b).pixel p q = s.pixel p q := rfl

/-! ### setKeyState -/

@[simp] theorem State.setKeyState_mem (k : Fin 16) (b : Bool) : (s.setKeyState k b).mem = s.mem := rfl
@[simp] theorem State.setKeyState_V (k : Fin 16) (b : Bool) : (s.setKeyState k b).V = s.V := rfl
@[simp] theorem State.setKeyState_I (k : Fin 16) (b : Bool) : (s.setKeyState k b).I = s.I := rfl
@[simp] theorem State.setKeyState_pc (k : Fin 16) (b : Bool) : (s.setKeyState k b).pc = s.pc := rfl
@[simp] theorem State.setKeyState_stack (k : Fin 16) (b : Bool) : (s.setKeyState k b).stack = s.stack := rfl
@[simp] theorem State.setKeyState_sp (k : Fin 16) (b : Bool) : (s.setKeyState k b).sp = s.sp := rfl
@[simp] theorem State.setKeyState_fb (k : Fin 16) (b : Bool) : (s.setKeyState k b).fb = s.fb := rfl
@[simp] theorem State.setKeyState_key (k : Fin 16) (b : Bool) : (s.setKeyState k b).key = s.key.set k.val b k.isLt := rfl
@[simp] theorem State.setKeyState_dt (k : Fin 16) (b : Bool) : (s.setKeyState k b).dt = s.dt := rfl
@[simp] theorem State.setKeyState_st (k : Fin 16) (b : Bool) : (s.setKeyState k b).st = s.st := rfl
@[simp] theorem State.setKeyState_redraw (k : Fin 16) (b : Bool) : (s.setKeyState k b).redraw = s.redraw := rfl
@[simp] theorem State.setKeyState_fault (k : Fin 16) (b : Bool) : (s.setKeyState k b).fault = s.fault := rfl
@[simp] theorem State.setKeyState_cause (k : Fin 16) (b : Bool) : (s.setKeyState k b).cause = s.cause := rfl
@[simp] theorem State.setKeyState_epc (k : Fin 16) (b : Bool) : (s.setKeyState k b).epc = s.epc := rfl
@[simp] theorem State.setKeyState_einfo (k : Fin 16) (b : Bool) : (s.setKeyState k b).einfo = s.einfo := rfl
@[simp] theorem State.setKeyState_cfg (k : Fin 16) (b : Bool) : (s.setKeyState k b).cfg = s.cfg := rfl
@[simp] theorem State.setKeyState_rndIn (k : Fin 16) (b : Bool) : (s.setKeyState k b).rndIn = s.rndIn := rfl
@[simp] theorem State.setKeyState_draws (k : Fin 16) (b : Bool) : (s.setKeyState k b).draws = s.draws := rfl
@[simp] theorem State.setKeyState_result (k : Fin 16) (b : Bool) : (s.setKeyState k b).result = s.result := rfl
@[simp] theorem State.setKeyState_reg (k : Fin 16) (b : Bool) (y : Nibble) : (s.setKeyState k b).reg y = s.reg y := rfl
@[simp] theorem State.setKeyState_byte (k : Fin 16) (b : Bool) (d : Nat) : (s.setKeyState k b).byte d = s.byte d := rfl
@[simp] theorem State.setKeyState_pixel (k : Fin 16) (b : Bool) (p : Fin 32) (q : Fin 64) : (s.setKeyState k b).pixel p q = s.pixel p q := rfl

/-! ### setDelay -/

@[simp] theorem State.setDelay_mem (v : Byte) : (s.setDelay v).mem = s.mem := rfl
@[simp] theorem State.setDelay_V (v : Byte) : (s.setDelay v).V = s.V := rfl
@[simp] theorem State.setDelay_I (v : Byte) : (s.setDelay v).I = s.I := rfl
@[simp] theorem State.setDelay_pc (v : Byte) : (s.setDelay v).pc = s.pc := rfl
@[simp] theorem State.setDelay_stack (v : Byte) : (s.setDelay v).stack = s.stack := rfl
@[simp] theorem State.setDelay_sp (v : Byte) : (s.setDelay v).sp = s.sp := rfl
@[simp] theorem State.setDelay_fb (v : Byte) : (s.setDelay v).fb = s.fb := rfl
@[simp] theorem State.setDelay_key (v : Byte) : (s.setDelay v).key = s.key := rfl
@[simp] theorem State.setDelay_dt (v : Byte) : (s.setDelay v).dt = v := rfl
@[simp] theorem State.setDelay_st (v : Byte) : (s.setDelay v).st = s.st := rfl
@[simp] theorem State.setDelay_redraw (v : Byte) : (s.setDelay v).redraw = s.redraw := rfl
@[simp] theorem State.setDelay_fault (v : Byte) : (s.setDelay v).fault = s.fault := rfl
@[simp] theorem State.setDelay_cause (v : Byte) : (s.setDelay v).cause = s.cause := rfl
@[simp] theorem State.setDelay_epc (v : Byte) : (s.setDelay v).epc = s.epc := rfl
@[simp] theorem State.setDelay_einfo (v : Byte) : (s.setDelay v).einfo = s.einfo := rfl
@[simp] theorem State.setDelay_cfg (v : Byte) : (s.setDelay v).cfg = s.cfg := rfl
@[simp] theorem State.setDelay_rndIn (v : Byte) : (s.setDelay v).rndIn = s.rndIn := rfl
@[simp] theorem State.setDelay_draws (v : Byte) : (s.setDelay v).draws = s.draws := rfl
@[simp] theorem State.setDelay_result (v : Byte) : (s.setDelay v).result = s.result := rfl
@[simp] theorem State.setDelay_reg (v : Byte) (y : Nibble) : (s.setDelay v).reg y = s.reg y := rfl
@[simp] theorem State.setDelay_byte (v : Byte) (d : Nat) : (s.setDelay v).byte d = s.byte d := rfl
@[simp] theorem State.setDelay_pixel (v : Byte) (p : Fin 32) (q : Fin 64) : (s.setDelay v).pixel p q = s.pixel p q := rfl

/-! ### setSound -/

@[simp] theorem State.setSound_mem (v : Byte) : (s.setSound v).mem = s.mem := rfl
@[simp] theorem State.setSound_V (v : Byte) : (s.setSound v).V = s.V := rfl
@[simp] theorem State.setSound_I (v : Byte) : (s.setSound v).I = s.I := rfl
@[simp] theorem State.setSound_pc (v : Byte) : (s.setSound v).pc = s.pc := rfl
@[simp] theorem State.setSound_stack (v : Byte) : (s.setSound v).stack = s.stack := rfl
@[simp] theorem State.setSound_sp (v : Byte) : (s.setSound v).sp = s.sp := rfl
@[simp] theorem State.setSound_fb (v : Byte) : (s.setSound v).fb = s.fb := rfl
@[simp] theorem State.setSound_key (v : Byte) : (s.setSound v).key = s.key := rfl
@[simp] theorem State.setSound_dt (v : Byte) : (s.setSound v).dt = s.dt := rfl
@[simp] theorem State.setSound_st (v : Byte) : (s.setSound v).st = v := rfl
@[simp] theorem State.setSound_redraw (v : Byte) : (s.setSound v).redraw = s.redraw := rfl
@[simp] theorem State.setSound_fault (v : Byte) : (s.setSound v).fault = s.fault := rfl
@[simp] theorem State.setSound_cause (v : Byte) : (s.setSound v).cause = s.cause := rfl
@[simp] theorem State.setSound_epc (v : Byte) : (s.setSound v).epc = s.epc := rfl
@[simp] theorem State.setSound_einfo (v : Byte) : (s.setSound v).einfo = s.einfo := rfl
@[simp] theorem State.setSound_cfg (v : Byte) : (s.setSound v).cfg = s.cfg := rfl
@[simp] theorem State.setSound_rndIn (v : Byte) : (s.setSound v).rndIn = s.rndIn := rfl
@[simp] theorem State.setSound_draws (v : Byte) : (s.setSound v).draws = s.draws := rfl
@[simp] theorem State.setSound_result (v : Byte) : (s.setSound v).result = s.result := rfl
@[simp] theorem State.setSound_reg (v : Byte) (y : Nibble) : (s.setSound v).reg y = s.reg y := rfl
@[simp] theorem State.setSound_byte (v : Byte) (d : Nat) : (s.setSound v).byte d = s.byte d := rfl
@[simp] theorem State.setSound_pixel (v : Byte) (p : Fin 32) (q : Fin 64) : (s.setSound v).pixel p q = s.pixel p q := rfl

/-! ### countDraw -/

@[simp] theorem State.countDraw_mem : (s.countDraw).mem = s.mem := rfl
@[simp] theorem State.countDraw_V : (s.countDraw).V = s.V := rfl
@[simp] theorem State.countDraw_I : (s.countDraw).I = s.I := rfl
@[simp] theorem State.countDraw_pc : (s.countDraw).pc = s.pc := rfl
@[simp] theorem State.countDraw_stack : (s.countDraw).stack = s.stack := rfl
@[simp] theorem State.countDraw_sp : (s.countDraw).sp = s.sp := rfl
@[simp] theorem State.countDraw_fb : (s.countDraw).fb = s.fb := rfl
@[simp] theorem State.countDraw_key : (s.countDraw).key = s.key := rfl
@[simp] theorem State.countDraw_dt : (s.countDraw).dt = s.dt := rfl
@[simp] theorem State.countDraw_st : (s.countDraw).st = s.st := rfl
@[simp] theorem State.countDraw_redraw : (s.countDraw).redraw = s.redraw := rfl
@[simp] theorem State.countDraw_fault : (s.countDraw).fault = s.fault := rfl
@[simp] theorem State.countDraw_cause : (s.countDraw).cause = s.cause := rfl
@[simp] theorem State.countDraw_epc : (s.countDraw).epc = s.epc := rfl
@[simp] theorem State.countDraw_einfo : (s.countDraw).einfo = s.einfo := rfl
@[simp] theorem State.countDraw_cfg : (s.countDraw).cfg = s.cfg := rfl
@[simp] theorem State.countDraw_rndIn : (s.countDraw).rndIn = s.rndIn := rfl
@[simp] theorem State.countDraw_draws : (s.countDraw).draws = s.draws + 1 := rfl
@[simp] theorem State.countDraw_result : (s.countDraw).result = s.result := rfl
@[simp] theorem State.countDraw_reg (y : Nibble) : (s.countDraw).reg y = s.reg y := rfl
@[simp] theorem State.countDraw_byte (d : Nat) : (s.countDraw).byte d = s.byte d := rfl
@[simp] theorem State.countDraw_pixel (p : Fin 32) (q : Fin 64) : (s.countDraw).pixel p q = s.pixel p q := rfl

/-! ### setRndIn -/

@[simp] theorem State.setRndIn_mem (r : Option Byte) : (s.setRndIn r).mem = s.mem := rfl
@[simp] theorem State.setRndIn_V (r : Option Byte) : (s.setRndIn r).V = s.V := rfl
@[simp] theorem State.setRndIn_I (r : Option Byte) : (s.setRndIn r).I = s.I := rfl
@[simp] theorem State.setRndIn_pc (r : Option Byte) : (s.setRndIn r).pc = s.pc := rfl
@[simp] theorem State.setRndIn_stack (r : Option Byte) : (s.setRndIn r).stack = s.stack := rfl
@[simp] theorem State.setRndIn_sp (r : Option Byte) : (s.setRndIn r).sp = s.sp := rfl
@[simp] theorem State.setRndIn_fb (r : Option Byte) : (s.setRndIn r).fb = s.fb := rfl
@[simp] theorem State.setRndIn_key (r : Option Byte) : (s.setRndIn r).key = s.key := rfl
@[simp] theorem State.setRndIn_dt (r : Option Byte) : (s.setRndIn r).dt = s.dt := rfl
@[simp] theorem State.setRndIn_st (r : Option Byte) : (s.setRndIn r).st = s.st := rfl
@[simp] theorem State.setRndIn_redraw (r : Option Byte) : (s.setRndIn r).redraw = s.redraw := rfl
@[simp] theorem State.setRndIn_fault (r : Option Byte) : (s.setRndIn r).fault = s.fault := rfl
@[simp] theorem State.setRndIn_cause (r : Option Byte) : (s.setRndIn r).cause = s.cause := rfl
@[simp] theorem State.setRndIn_epc (r : Option Byte) : (s.setRndIn r).epc = s.epc := rfl
@[simp] theorem State.setRndIn_einfo (r : Option Byte) : (s.setRndIn r).einfo = s.einfo := rfl
@[simp] theorem State.setRndIn_cfg (r : Option Byte) : (s.setRndIn r).cfg = s.cfg := rfl
@[simp] theorem State.setRndIn_rndIn (r : Option Byte) : (s.setRndIn r).rndIn = r := rfl
@[simp] theorem State.setRndIn_draws (r : Option Byte) : (s.setRndIn r).draws = s.draws := rfl
@[simp] theorem State.setRndIn_result (r : Option Byte) : (s.setRndIn r).result = s.result := rfl
@[simp] theorem State.setRndIn_reg (r : Option Byte) (y : Nibble) : (s.setRndIn r).reg y = s.reg y := rfl
@[simp] theorem State.setRndIn_byte (r : Option Byte) (d : Nat) : (s.setRndIn r).byte d = s.byte d := rfl
@[simp] theorem State.setRndIn_pixel (r : Option Byte) (p : Fin 32) (q : Fin 64) : (s.setRndIn r).pixel p q = s.pixel p q := rfl

/-! ### setResult -/

@[simp] theorem State.setResult_mem (r : StepResult) : (s.setResult r).mem = s.mem := rfl
@[simp] theorem State.setResult_V (r : StepResult) : (s.setResult r).V = s.V := rfl
@[simp] theorem State.setResult_I (r : StepResult) : (s.setResult r).I = s.I := rfl
@[simp] theorem State.setResult_pc (r : StepResult) : (s.setResult r).pc = s.pc := rfl
@[simp] theorem State.setResult_stack (r : StepResult) : (s.setResult r).stack = s.stack := rfl
@[simp] theorem State.setResult_sp (r : StepResult) : (s.setResult r).sp = s.sp := rfl
@[simp] theorem State.setResult_fb (r : StepResult) : (s.setResult r).fb = s.fb := rfl
@[simp] theorem State.setResult_key (r : StepResult) : (s.setResult r).key = s.key := rfl
@[simp] theorem State.setResult_dt (r : StepResult) : (s.setResult r).dt = s.dt := rfl
@[simp] theorem State.setResult_st (r : StepResult) : (s.setResult r).st = s.st := rfl
@[simp] theorem State.setResult_redraw (r : StepResult) : (s.setResult r).redraw = s.redraw := rfl
@[simp] theorem State.setResult_fault (r : StepResult) : (s.setResult r).fault = s.fault := rfl
@[simp] theorem State.setResult_cause (r : StepResult) : (s.setResult r).cause = s.cause := rfl
@[simp] theorem State.setResult_epc (r : StepResult) : (s.setResult r).epc = s.epc := rfl
@[simp] theorem State.setResult_einfo (r : StepResult) : (s.setResult r).einfo = s.einfo := rfl
@[simp] theorem State.setResult_cfg (r : StepResult) : (s.setResult r).cfg = s.cfg := rfl
@[simp] theorem State.setResult_rndIn (r : StepResult) : (s.setResult r).rndIn = s.rndIn := rfl
@[simp] theorem State.setResult_draws (r : StepResult) : (s.setResult r).draws = s.draws := rfl
@[simp] theorem State.setResult_result (r : StepResult) : (s.setResult r).result = some r := rfl
@[simp] theorem State.setResult_reg (r : StepResult) (y : Nibble) : (s.setResult r).reg y = s.reg y := rfl
@[simp] theorem State.setResult_byte (r : StepResult) (d : Nat) : (s.setResult r).byte d = s.byte d := rfl
@[simp] theorem State.setResult_pixel (r : StepResult) (p : Fin 32) (q : Fin 64) : (s.setResult r).pixel p q = s.pixel p q := rfl

/-! ### latch -/

@[simp] theorem State.latch_mem (c : Cause) (i : Word) : (s.latch c i).mem = s.mem := rfl
@[simp] theorem State.latch_V (c : Cause) (i : Word) : (s.latch c i).V = s.V := rfl
@[simp] theorem State.latch_I (c : Cause) (i : Word) : (s.latch c i).I = s.I := rfl
@[simp] theorem State.latch_pc (c : Cause) (i : Word) : (s.latch c i).pc = s.pc := rfl
@[simp] theorem State.latch_stack (c : Cause) (i : Word) : (s.latch c i).stack = s.stack := rfl
@[simp] theorem State.latch_sp (c : Cause) (i : Word) : (s.latch c i).sp = s.sp := rfl
@[simp] theorem State.latch_fb (c : Cause) (i : Word) : (s.latch c i).fb = s.fb := rfl
@[simp] theorem State.latch_key (c : Cause) (i : Word) : (s.latch c i).key = s.key := rfl
@[simp] theorem State.latch_dt (c : Cause) (i : Word) : (s.latch c i).dt = s.dt := rfl
@[simp] theorem State.latch_st (c : Cause) (i : Word) : (s.latch c i).st = s.st := rfl
@[simp] theorem State.latch_redraw (c : Cause) (i : Word) : (s.latch c i).redraw = s.redraw := rfl
@[simp] theorem State.latch_fault (c : Cause) (i : Word) : (s.latch c i).fault = true := rfl
@[simp] theorem State.latch_cause (c : Cause) (i : Word) : (s.latch c i).cause = c := rfl
@[simp] theorem State.latch_epc (c : Cause) (i : Word) : (s.latch c i).epc = s.pc := rfl
@[simp] theorem State.latch_einfo (c : Cause) (i : Word) : (s.latch c i).einfo = i := rfl
@[simp] theorem State.latch_cfg (c : Cause) (i : Word) : (s.latch c i).cfg = s.cfg := rfl
@[simp] theorem State.latch_rndIn (c : Cause) (i : Word) : (s.latch c i).rndIn = s.rndIn := rfl
@[simp] theorem State.latch_draws (c : Cause) (i : Word) : (s.latch c i).draws = s.draws := rfl
@[simp] theorem State.latch_result (c : Cause) (i : Word) : (s.latch c i).result = s.result := rfl
@[simp] theorem State.latch_reg (c : Cause) (i : Word) (y : Nibble) : (s.latch c i).reg y = s.reg y := rfl
@[simp] theorem State.latch_byte (c : Cause) (i : Word) (d : Nat) : (s.latch c i).byte d = s.byte d := rfl
@[simp] theorem State.latch_pixel (c : Cause) (i : Word) (p : Fin 32) (q : Fin 64) : (s.latch c i).pixel p q = s.pixel p q := rfl

/-! ### The state after reset -/

@[simp] theorem State.resetWith_mem (c : Config) : (State.resetWith c).mem = [] := rfl
@[simp] theorem State.resetWith_V (c : Config) : (State.resetWith c).V = Vector.replicate 16 0 := rfl
@[simp] theorem State.resetWith_I (c : Config) : (State.resetWith c).I = 0 := rfl
@[simp] theorem State.resetWith_pc (c : Config) : (State.resetWith c).pc = 0x200 := rfl
@[simp] theorem State.resetWith_stack (c : Config) : (State.resetWith c).stack = Vector.replicate 16 0 := rfl
@[simp] theorem State.resetWith_sp (c : Config) : (State.resetWith c).sp = 0 := rfl
@[simp] theorem State.resetWith_fb (c : Config) : (State.resetWith c).fb = Vector.replicate 32 0 := rfl
@[simp] theorem State.resetWith_key (c : Config) : (State.resetWith c).key = Vector.replicate 16 false := rfl
@[simp] theorem State.resetWith_dt (c : Config) : (State.resetWith c).dt = 0 := rfl
@[simp] theorem State.resetWith_st (c : Config) : (State.resetWith c).st = 0 := rfl
@[simp] theorem State.resetWith_redraw (c : Config) : (State.resetWith c).redraw = false := rfl
@[simp] theorem State.resetWith_fault (c : Config) : (State.resetWith c).fault = false := rfl
@[simp] theorem State.resetWith_cause (c : Config) : (State.resetWith c).cause = .none := rfl
@[simp] theorem State.resetWith_epc (c : Config) : (State.resetWith c).epc = 0 := rfl
@[simp] theorem State.resetWith_einfo (c : Config) : (State.resetWith c).einfo = 0 := rfl
@[simp] theorem State.resetWith_cfg (c : Config) : (State.resetWith c).cfg = c := rfl
@[simp] theorem State.resetWith_rndIn (c : Config) : (State.resetWith c).rndIn = none := rfl
@[simp] theorem State.resetWith_draws (c : Config) : (State.resetWith c).draws = 0 := rfl
@[simp] theorem State.resetWith_result (c : Config) : (State.resetWith c).result = none := rfl

@[simp] theorem State.hostReset_mem : s.hostReset.mem = [] := rfl
@[simp] theorem State.hostReset_V : s.hostReset.V = Vector.replicate 16 0 := rfl
@[simp] theorem State.hostReset_I : s.hostReset.I = 0 := rfl
@[simp] theorem State.hostReset_pc : s.hostReset.pc = 0x200 := rfl
@[simp] theorem State.hostReset_stack : s.hostReset.stack = Vector.replicate 16 0 := rfl
@[simp] theorem State.hostReset_sp : s.hostReset.sp = 0 := rfl
@[simp] theorem State.hostReset_fb : s.hostReset.fb = Vector.replicate 32 0 := rfl
@[simp] theorem State.hostReset_key : s.hostReset.key = Vector.replicate 16 false := rfl
@[simp] theorem State.hostReset_dt : s.hostReset.dt = 0 := rfl
@[simp] theorem State.hostReset_st : s.hostReset.st = 0 := rfl
@[simp] theorem State.hostReset_redraw : s.hostReset.redraw = false := rfl
@[simp] theorem State.hostReset_fault : s.hostReset.fault = false := rfl
@[simp] theorem State.hostReset_cause : s.hostReset.cause = .none := rfl
@[simp] theorem State.hostReset_epc : s.hostReset.epc = 0 := rfl
@[simp] theorem State.hostReset_einfo : s.hostReset.einfo = 0 := rfl
@[simp] theorem State.hostReset_cfg : s.hostReset.cfg = s.cfg := rfl
@[simp] theorem State.hostReset_rndIn : s.hostReset.rndIn = none := rfl
@[simp] theorem State.hostReset_draws : s.hostReset.draws = s.draws := rfl
@[simp] theorem State.hostReset_result : s.hostReset.result = none := rfl

end Sys2Proof.Machine
end

