-- ==== Sys2Proof/Laws/Memory.lean ====
section
/-! SUPPORT. Memory: a read after a write, the bytes a write leaves alone, the canonical form kept by every operation
(spec/20_memory.md R65, R71; log 8). -/

namespace Sys2Proof.Machine

variable (cfg : Config)

/-! ### The list of cells -/

theorem Memory.find_cons_ne {a b : Nat} (v : Byte) (m : Memory) (h : b ≠ a) :
    Memory.find (Memory.cons cfg a v m) b = Memory.find m b := by
  unfold Memory.cons
  split
  · rfl
  · simp [Memory.find, Ne.symm h]

/-- A write leaves every other address alone. -/
theorem Memory.read_write_ne (m : Memory) {a b : Nat} (v : Byte) (h : b ≠ a) :
    Memory.read cfg (Memory.write cfg m a v) b = Memory.read cfg m b := by
  have key : Memory.find (Memory.write cfg m a v) b = Memory.find m b := by
    induction m with
    | nil => exact Memory.find_cons_ne cfg v [] h
    | cons c m ih =>
      simp only [Memory.write]
      split
      · exact Memory.find_cons_ne cfg v _ h
      · split
        · rename_i hc
          rw [Memory.find_cons_ne cfg v _ h]
          simp [Memory.find, show ¬ c.1 = b from fun e => h (by omega)]
        · simp [Memory.find, ih]
  simp [Memory.read, key]

/-- Above every address of a memory, and below the first one, nothing is listed. -/
theorem Memory.find_none {m : Memory} {a : Nat} (h : ∀ c ∈ m, c.1 ≠ a) : Memory.find m a = none := by
  induction m with
  | nil => rfl
  | cons c m ih =>
    have hc := h c (by simp)
    simp [Memory.find, hc, ih fun d hd => h d (by simp [hd])]

/-- What the canonical form says of the first cell and of the rest. -/
theorem Memory.wf_cons {c : Host.Cell} {m : Memory} :
    Memory.wf cfg (c :: m) = true ↔
      c.1 < 4096 ∧ c.2 ≠ Memory.unlisted cfg c.1 ∧ (∀ d ∈ m, c.1 < d.1) ∧ Memory.wf cfg m = true := by
  simp [Memory.wf, and_assoc]

/-- A read of the address written gives the value written. -/
theorem Memory.read_write_self {m : Memory} (hm : Memory.wf cfg m = true) (a : Nat) (v : Byte) :
    Memory.read cfg (Memory.write cfg m a v) a = v := by
  have front : ∀ m : Memory, (∀ c ∈ m, c.1 ≠ a) → Memory.read cfg (Memory.cons cfg a v m) a = v := by
    intro m h
    unfold Memory.cons Memory.read
    split
    · rename_i hv; simp [Memory.find_none h, hv]
    · simp [Memory.find]
  induction m with
  | nil => exact front [] (by simp)
  | cons c m ih =>
    obtain ⟨-, -, hlt, hm'⟩ := (Memory.wf_cons cfg).1 hm
    simp only [Memory.write]
    split
    · rename_i hac
      refine front _ fun d hd => ?_
      rcases List.mem_cons.1 hd with rfl | hd
      · omega
      · have := hlt d hd; omega
    · split
      · rename_i hac
        exact front m fun d hd => by have := hlt d hd; omega
      · rename_i h1 h2
        have := ih hm'
        simp only [Memory.read, Memory.find] at this ⊢
        rwa [if_neg (by omega)]

/-- Every cell of a memory written to is the cell written or a cell that was there. -/
theorem Memory.mem_write {m : Memory} {a : Nat} {v : Byte} {d : Host.Cell} (h : d ∈ Memory.write cfg m a v) :
    d.1 = a ∨ d ∈ m := by
  have front : ∀ m : Memory, d ∈ Memory.cons cfg a v m → d.1 = a ∨ d ∈ m := by
    intro m h
    unfold Memory.cons at h
    split at h
    · exact .inr h
    · rcases List.mem_cons.1 h with rfl | h
      · exact .inl rfl
      · exact .inr h
  induction m with
  | nil => exact front [] h
  | cons c m ih =>
    simp only [Memory.write] at h
    split at h
    · exact front _ h
    · split at h
      · rcases front _ h with h | h
        · exact .inl h
        · exact .inr (by simp [h])
      · rcases List.mem_cons.1 h with rfl | h
        · exact .inr (by simp)
        · rcases ih h with h | h
          · exact .inl h
          · exact .inr (by simp [h])

/-- A write inside the address space keeps the canonical form. -/
theorem Memory.wf_write {m : Memory} (hm : Memory.wf cfg m = true) {a : Nat} (ha : a < 4096) (v : Byte) :
    Memory.wf cfg (Memory.write cfg m a v) = true := by
  have front : ∀ m : Memory, Memory.wf cfg m = true → (∀ d ∈ m, a < d.1) →
      Memory.wf cfg (Memory.cons cfg a v m) = true := by
    intro m hm hlt
    unfold Memory.cons
    split
    · exact hm
    · rename_i hv; exact (Memory.wf_cons cfg).2 ⟨ha, hv, hlt, hm⟩
  induction m with
  | nil => exact front [] rfl (by simp)
  | cons c m ih =>
    obtain ⟨hc, hv, hlt, hm'⟩ := (Memory.wf_cons cfg).1 hm
    simp only [Memory.write]
    split
    · rename_i hac
      refine front _ hm fun d hd => ?_
      rcases List.mem_cons.1 hd with rfl | hd
      · exact hac
      · have := hlt d hd; omega
    · split
      · exact front m hm' fun d hd => by have := hlt d hd; omega
      · refine (Memory.wf_cons cfg).2 ⟨hc, hv, fun d hd => ?_, ih hm'⟩
        rcases Memory.mem_write cfg hd with h | h
        · omega
        · exact hlt d h

/-! ### Bytes of the state -/

variable (s : State)

theorem State.byte_setByte_self (hm : Memory.wf s.cfg s.mem = true) (a : Nat) (v : Byte) :
    (s.setByte a v).byte a = v := Memory.read_write_self s.cfg hm a v

theorem State.byte_setByte_ne {a b : Nat} (v : Byte) (h : b ≠ a) : (s.setByte a v).byte b = s.byte b :=
  Memory.read_write_ne s.cfg s.mem v h

theorem State.wf_setByte (hm : Memory.wf s.cfg s.mem = true) {a : Nat} (ha : a < 4096) (v : Byte) :
    Memory.wf (s.setByte a v).cfg (s.setByte a v).mem = true := Memory.wf_write s.cfg hm ha v

/-- After a block write, an address inside the block holds the byte of the list at its offset; every other address is as
before. -/
theorem State.byte_setBytes (hm : Memory.wf s.cfg s.mem = true) (a : Nat) (bs : List Byte)
    (hb : a + bs.length ≤ 4096) (b : Nat) :
    (s.setBytes a bs).byte b = if a ≤ b then (bs[b - a]?).getD (s.byte b) else s.byte b := by
  induction bs generalizing s a with
  | nil => simp [State.setBytes]
  | cons v bs ih =>
    simp only [List.length_cons] at hb
    rw [State.setBytes, ih _ (State.wf_setByte s hm (by omega) v) _ (by omega)]
    rcases Nat.lt_trichotomy b a with h | h | h
    · rw [if_neg (by omega), if_neg (by omega), State.byte_setByte_ne s v (by omega)]
    · subst h
      rw [if_neg (by omega), if_pos (by omega), State.byte_setByte_self s hm]
      simp
    · rw [if_pos (by omega), if_pos (by omega), State.byte_setByte_ne s v (by omega)]
      obtain ⟨k, hk⟩ : ∃ k, b - a = k + 1 := ⟨b - a - 1, by omega⟩
      rw [hk, show b - (a + 1) = k by omega]
      simp

/-- A block write leaves the addresses outside the block alone, in every state. -/
theorem State.byte_setBytes_outside (a : Nat) (bs : List Byte) {b : Nat} (h : b < a ∨ a + bs.length ≤ b) :
    (s.setBytes a bs).byte b = s.byte b := by
  induction bs generalizing s a with
  | nil => rfl
  | cons v bs ih =>
    simp only [List.length_cons] at h
    rw [State.setBytes, ih _ _ (by omega), State.byte_setByte_ne s v (by omega)]

/-- A block write inside the address space keeps the canonical form. -/
theorem State.wf_setBytes (hm : Memory.wf s.cfg s.mem = true) (a : Nat) (bs : List Byte)
    (hb : a + bs.length ≤ 4096) : Memory.wf (s.setBytes a bs).cfg (s.setBytes a bs).mem = true := by
  induction bs generalizing s a with
  | nil => exact hm
  | cons v bs ih =>
    simp only [List.length_cons] at hb
    exact ih _ (State.wf_setByte s hm (by omega) v) _ (by omega)

/-- A block write changes memory and nothing else. -/
theorem State.setBytes_eq (a : Nat) (bs : List Byte) : s.setBytes a bs = { s with mem := (s.setBytes a bs).mem } := by
  induction bs generalizing s a with
  | nil => rfl
  | cons v bs ih => rw [State.setBytes, ih]; rfl

@[simp] theorem State.setBytes_V (a : Nat) (bs : List Byte) : (s.setBytes a bs).V = s.V := by rw [State.setBytes_eq]
@[simp] theorem State.setBytes_I (a : Nat) (bs : List Byte) : (s.setBytes a bs).I = s.I := by rw [State.setBytes_eq]
@[simp] theorem State.setBytes_pc (a : Nat) (bs : List Byte) : (s.setBytes a bs).pc = s.pc := by rw [State.setBytes_eq]
@[simp] theorem State.setBytes_stack (a : Nat) (bs : List Byte) : (s.setBytes a bs).stack = s.stack := by rw [State.setBytes_eq]
@[simp] theorem State.setBytes_sp (a : Nat) (bs : List Byte) : (s.setBytes a bs).sp = s.sp := by rw [State.setBytes_eq]
@[simp] theorem State.setBytes_fb (a : Nat) (bs : List Byte) : (s.setBytes a bs).fb = s.fb := by rw [State.setBytes_eq]
@[simp] theorem State.setBytes_key (a : Nat) (bs : List Byte) : (s.setBytes a bs).key = s.key := by rw [State.setBytes_eq]
@[simp] theorem State.setBytes_dt (a : Nat) (bs : List Byte) : (s.setBytes a bs).dt = s.dt := by rw [State.setBytes_eq]
@[simp] theorem State.setBytes_st (a : Nat) (bs : List Byte) : (s.setBytes a bs).st = s.st := by rw [State.setBytes_eq]
@[simp] theorem State.setBytes_redraw (a : Nat) (bs : List Byte) : (s.setBytes a bs).redraw = s.redraw := by rw [State.setBytes_eq]
@[simp] theorem State.setBytes_fault (a : Nat) (bs : List Byte) : (s.setBytes a bs).fault = s.fault := by rw [State.setBytes_eq]
@[simp] theorem State.setBytes_cause (a : Nat) (bs : List Byte) : (s.setBytes a bs).cause = s.cause := by rw [State.setBytes_eq]
@[simp] theorem State.setBytes_epc (a : Nat) (bs : List Byte) : (s.setBytes a bs).epc = s.epc := by rw [State.setBytes_eq]
@[simp] theorem State.setBytes_einfo (a : Nat) (bs : List Byte) : (s.setBytes a bs).einfo = s.einfo := by rw [State.setBytes_eq]
@[simp] theorem State.setBytes_cfg (a : Nat) (bs : List Byte) : (s.setBytes a bs).cfg = s.cfg := by rw [State.setBytes_eq]
@[simp] theorem State.setBytes_rndIn (a : Nat) (bs : List Byte) : (s.setBytes a bs).rndIn = s.rndIn := by rw [State.setBytes_eq]
@[simp] theorem State.setBytes_draws (a : Nat) (bs : List Byte) : (s.setBytes a bs).draws = s.draws := by rw [State.setBytes_eq]
@[simp] theorem State.setBytes_result (a : Nat) (bs : List Byte) : (s.setBytes a bs).result = s.result := by rw [State.setBytes_eq]
@[simp] theorem State.setBytes_reg (a : Nat) (bs : List Byte) (x : Nibble) : (s.setBytes a bs).reg x = s.reg x := by
  rw [State.setBytes_eq]; rfl
@[simp] theorem State.setBytes_pixel (a : Nat) (bs : List Byte) (p : Fin 32) (q : Fin 64) :
    (s.setBytes a bs).pixel p q = s.pixel p q := by rw [State.setBytes_eq]; rfl

end Sys2Proof.Machine
end

