-- ==== Sys2Proof/Laws/Ops.lean ====
section
/-! SUPPORT. For each shared operation, what it does, once: registers, checked accesses, fetch, stack, screen, flags, keys,
and how an instruction ends. -/

namespace Sys2Proof.Machine

variable (s : State)

/-! ### Registers -/

/-- Every register reads back what was written, and a write leaves the others alone (10_state.md R21). -/
theorem State.reg_setReg (x y : Nibble) (v : Byte) : (s.setReg x v).reg y = if y = x then v else s.reg y := by
  simp only [State.reg, State.setReg, Vector.getElem_set, BitVec.toNat_inj]
  by_cases h : x = y
  · subst h; simp
  · rw [if_neg h, if_neg (Ne.symm h)]

@[simp] theorem State.reg_setReg_self (x : Nibble) (v : Byte) : (s.setReg x v).reg x = v := by
  simp [State.reg_setReg]

theorem State.reg_setReg_ne {x y : Nibble} (v : Byte) (h : y ≠ x) : (s.setReg x v).reg y = s.reg y := by
  simp [State.reg_setReg, h]

/-- A block load writes the registers the list has a byte for. -/
theorem State.reg_setRegs (bs : List Byte) (y : Nibble) :
    (s.setRegs bs).reg y = (bs[y.toNat]?).getD (s.reg y) := by
  simp [State.reg, State.setRegs]

/-- Result and flag: VF holds the flag, another destination the result, the rest is as before (10_state.md R25). -/
theorem State.reg_setResultAndFlag (x y : Nibble) (v : Byte) (f : Bool) :
    (s.setResultAndFlag x v f).reg y = if y = regF then flagByte f else if y = x then v else s.reg y := by
  simp [State.setResultAndFlag, State.setFlag, State.reg_setReg]

/-- The bytes stored by Fx55: register k at offset k, for k up to x. -/
theorem State.regsUpTo_getElem? (x : Nibble) (k : Nibble) (h : k.toNat ≤ x.toNat) :
    (s.regsUpTo x)[k.toNat]? = some (s.reg k) := by
  have hk := k.isLt
  have : k.toNat < (s.regsUpTo x).length := by simp [State.regsUpTo]; omega
  rw [List.getElem?_eq_getElem this]
  simp [State.regsUpTo, State.reg]

@[simp] theorem State.regsUpTo_length (x : Nibble) : (s.regsUpTo x).length = x.toNat + 1 := by
  have := x.isLt
  simp [State.regsUpTo]
  omega

/-! ### Checked accesses and fetch -/

theorem inBounds_iff (a n : Nat) : inBounds a n = true ↔ n = 0 ∨ a + n ≤ 4096 := by
  simp only [inBounds, Bool.or_eq_true, beq_iff_eq, decide_eq_true_eq]
  omega

@[simp] theorem State.bytes_length (a n : Nat) : (s.bytes a n).length = n := by simp [State.bytes]

theorem State.bytes_getElem? (a n k : Nat) (h : k < n) : (s.bytes a n)[k]? = some (s.byte (a + k)) := by
  simp [State.bytes, h]

theorem State.memRead_some {a n : Nat} (h : n = 0 ∨ a + n ≤ 4096) : s.memRead a n = some (s.bytes a n) := by
  simp [State.memRead, (inBounds_iff a n).2 h]

theorem State.memRead_none {a n : Nat} (h : 0 < n) (hb : 4096 < a + n) : s.memRead a n = none := by
  have : ¬ inBounds a n = true := fun e => by rcases (inBounds_iff a n).1 e <;> omega
  simp [State.memRead, this]

theorem State.memWrite_some {a : Nat} {bs : List Byte} (h : a + bs.length ≤ 4096) :
    s.memWrite a bs = some (s.setBytes a bs) := by
  simp [State.memWrite, (inBounds_iff a bs.length).2 (.inr h)]

theorem State.memWrite_none {a : Nat} {bs : List Byte} (h : 0 < bs.length) (hb : 4096 < a + bs.length) :
    s.memWrite a bs = none := by
  have : ¬ inBounds a bs.length = true := fun e => by rcases (inBounds_iff a bs.length).1 e <;> omega
  simp [State.memWrite, this]

/-- What a checked write that succeeds has done. -/
theorem State.memWrite_eq_some {t : State} {a : Nat} {bs : List Byte} (h : s.memWrite a bs = some t) :
    (bs.length = 0 ∨ a + bs.length ≤ 4096) ∧ t = s.setBytes a bs := by
  simp only [State.memWrite] at h
  split at h
  · rename_i hb; exact ⟨(inBounds_iff _ _).1 hb, by simpa using h.symm⟩
  · simp at h

/-- The fetch reads two bytes, the lower address high, unless `pc + 1 > 4095` (20_memory.md R62, R66). -/
theorem State.fetch_eq :
    s.fetch = if s.pc.toNat + 1 ≤ 4095 then some (wordOf (s.byte s.pc.toNat) (s.byte (s.pc.toNat + 1))) else none := by
  unfold State.fetch
  by_cases h : s.pc.toNat + 1 ≤ 4095
  · rw [State.memRead_some s (.inr (by omega)), if_pos h]
    simp [State.bytes, List.range_succ]
  · rw [State.memRead_none s (by omega) (by omega), if_neg h]

/-! ### Stack -/

theorem State.push_some (a : Word) (h : s.sp.val < 16) :
    s.push a = some { s with stack := s.stack.set s.sp.val a h, sp := ⟨s.sp.val + 1, by omega⟩ } := by
  simp [State.push, h]

theorem State.push_none (a : Word) (h : s.sp.val = 16) : s.push a = none := by simp [State.push, h]

theorem State.pop_some (h : s.sp.val ≠ 0) :
    s.pop = some (s.stack[s.sp.val - 1], { s with sp := ⟨s.sp.val - 1, by omega⟩ }) := by
  simp [State.pop, h]

theorem State.pop_none (h : s.sp.val = 0) : s.pop = none := by simp [State.pop, h]

/-! ### Screen -/

/-- A sprite byte's bit at screen column c: bit `7 - (c - x0)` for the columns x0 to x0 + 7, nothing elsewhere, so that
what passes column 63 is dropped (45_display.md R191, R192). -/
theorem spriteBits_getMsbD (b : Byte) (x0 c : Nat) (hc : c < 64) :
    (spriteBits b x0).getMsbD c = (decide (x0 ≤ c ∧ c < x0 + 8) && b.getLsbD (7 - (c - x0))) := by
  simp only [spriteBits, BitVec.getMsbD_ushiftRight, BitVec.getMsbD_append]
  by_cases h : x0 ≤ c
  · by_cases h2 : c < x0 + 8
    · have h3 : c - x0 < 8 := by omega
      simp [h, h2, BitVec.getMsbD, h3, hc, show ¬ c < x0 by omega]
    · have h3 : ¬ c - x0 < 8 := by omega
      simp [h2, h3]
  · simp [h, show c < x0 by omega]

/-- The pixel of a sprite at a screen place: in its n rows and 8 columns the bit of its byte, elsewhere 0. -/
theorem spriteRow_getMsbD (sprite : List Byte) (x0 y0 r c : Nat) (hc : c < 64) :
    (spriteRow sprite x0 y0 r).getMsbD c =
      (decide (y0 ≤ r ∧ r < y0 + sprite.length ∧ x0 ≤ c ∧ c < x0 + 8) &&
        ((sprite[r - y0]?).getD 0).getLsbD (7 - (c - x0))) := by
  unfold spriteRow
  by_cases h : y0 ≤ r
  · rw [if_pos h]
    by_cases h2 : r < y0 + sprite.length
    · rw [List.getElem?_eq_getElem (by omega : r - y0 < sprite.length)]
      simp [spriteBits_getMsbD _ _ _ hc, h, h2]
    · rw [List.getElem?_eq_none (by omega : sprite.length ≤ r - y0)]
      simp [h2]
  · rw [if_neg h]
    simp [h]

/-- Drawing inverts the pixels under the sprite's 1 pixels and leaves the others (45_display.md R191). -/
theorem State.pixel_drawSprite (sprite : List Byte) (x0 y0 : Nat) (r : Fin 32) (c : Fin 64) :
    (s.setScreen (drawSprite s.fb sprite x0 y0)).pixel r c =
      (s.pixel r c ^^ (spriteRow sprite x0 y0 r.val).getMsbD c.val) := by
  simp [State.pixel, drawSprite, BitVec.getMsbD_xor]

/-- The collision flag is set exactly when some pixel is 1 on the screen and in the sprite (45_display.md R192). -/
theorem collides_iff (sprite : List Byte) (x0 y0 : Nat) :
    collides s.fb sprite x0 y0 = true ↔
      ∃ (r : Fin 32) (c : Fin 64), s.pixel r c = true ∧ (spriteRow sprite x0 y0 r.val).getMsbD c.val = true := by
  simp only [collides, List.any_eq_true, List.mem_finRange, true_and, bne_iff_ne, ne_eq]
  refine exists_congr fun r => ?_
  constructor
  · intro h
    by_contra hn
    push Not at hn
    apply h
    apply BitVec.eq_of_getMsbD_eq
    intro i hi
    have := hn ⟨i, hi⟩
    simp only [State.pixel] at this
    rw [BitVec.getMsbD_and]
    by_cases hp : s.fb[r].getMsbD i = true
    · simp [this hp]
    · simp at hp; simp [hp]
  · rintro ⟨c, h1, h2⟩ h0
    have : (s.fb[r] &&& spriteRow sprite x0 y0 r.val).getMsbD c.val = true := by
      rw [BitVec.getMsbD_and]; simp [State.pixel] at h1; simp [h1, h2]
    rw [h0] at this
    simp at this

/-! ### Keys -/

theorem mem_pressedKeys (key : Vector Bool 16) (k : Fin 16) : k ∈ pressedKeys key ↔ key[k] = true := by
  simp [pressedKeys]

theorem pressedKeys_eq_nil (key : Vector Bool 16) : pressedKeys key = [] ↔ ∀ k : Fin 16, key[k] = false := by
  simp [pressedKeys]

/-- `KEY_SELECT` names a pressed key whenever one is pressed (46_keypad.md R203). -/
theorem selectKey_pressed (cfg : Config) (key : Vector Bool 16) (h : ∃ k : Fin 16, key[k] = true) :
    key[selectKey cfg key] = true := by
  obtain ⟨k, hk⟩ := h
  have hne : pressedKeys key ≠ [] := List.ne_nil_of_mem ((mem_pressedKeys key k).2 hk)
  have hd : (pressedKeys key).head?.getD 0 ∈ pressedKeys key := by
    rw [List.head?_eq_some_head hne]
    exact List.head_mem hne
  rw [← mem_pressedKeys]
  unfold selectKey
  cases cfg.keySelect with
  | lowest => exact hd
  | highest =>
    simp only [List.getLast?_eq_some_getLast hne]
    exact List.getLast_mem hne
  | other n =>
    dsimp only
    split
    · rename_i h; exact (mem_pressedKeys key _).2 h
    · exact hd

/-- With the default `KEY_SELECT` no key below the one named is pressed. -/
theorem selectKey_lowest (cfg : Config) (key : Vector Bool 16) (hc : cfg.keySelect = .lowest) (k : Fin 16)
    (hk : key[k] = true) : (selectKey cfg key).val ≤ k.val := by
  have hmem := (mem_pressedKeys key k).2 hk
  have hs : (pressedKeys key).Pairwise (· < ·) := List.Pairwise.filter _ (List.pairwise_lt_finRange 16)
  simp only [selectKey, hc]
  cases hp : pressedKeys key with
  | nil => rw [hp] at hmem; simp at hmem
  | cons a l =>
    rw [hp] at hmem hs
    rcases List.mem_cons.1 hmem with rfl | h
    · simp
    · have := (List.pairwise_cons.1 hs).1 k h
      simpa using le_of_lt this

theorem keyNumber_some {v : Byte} (h : v.toNat < 16) : keyNumber v = some ⟨v.toNat, h⟩ := by simp [keyNumber, h]

theorem keyNumber_none {v : Byte} (h : 15 < v.toNat) : keyNumber v = none := by
  simp [keyNumber, show ¬ v.toNat < 16 by omega]

/-! ### How an instruction ends -/

/-- Completing writes the result and `pc`, and nothing else. -/
theorem State.jump_eq (a : Word) : s.jump a = .next ((s.setPc a).setResult .ok) := rfl

theorem State.advance_eq : s.advance = .next ((s.setPc (s.pc + 2)).setResult .ok) := rfl

/-- A skip goes to `pc + 4` or `pc + 2` (42_skips.md R150). -/
theorem State.skipIf_eq (c : Bool) :
    s.skipIf c = .next ((s.setPc (s.pc + if c then 4 else 2)).setResult .ok) := by
  cases c <;> rfl

theorem State.block_eq : s.block = .next (s.setResult .blocked) := rfl

theorem State.raise_eq (c : Cause) (i : Word) : s.raise c i = .next ((s.latch c i).setResult (.fault c i)) := rfl

theorem State.tick_eq : s.tick = (s.setDelay (tickDown s.dt)).setSound (tickDown s.st) := rfl

/-- One decrement with floor at 0, as numbers (47_timers.md R213). -/
theorem tickDown_toNat (t : Byte) : (tickDown t).toNat = t.toNat - 1 := by
  unfold tickDown
  split
  · rename_i h; simp [h]
  · rename_i h
    have : t.toNat ≠ 0 := fun e => h (BitVec.eq_of_toNat_eq (by simpa using e))
    have := t.isLt
    rw [BitVec.toNat_sub]
    simp
    omega

end Sys2Proof.Machine
end

