-- ==== Sys2Proof/Laws/Exec.lean ====
section
/-! SUPPORT. For each meaning with more than one way to end, one equation for each way; and, once for all instructions,
the three ways an instruction ends: a fault entry, a block, a completion. Proofs cite these and never unfold a meaning. -/

namespace Sys2Proof.Machine

variable (s : State)

/-! ### Values -/

theorem zextByte_eq (v : Byte) : zextByte v = BitVec.ofNat 16 v.toNat := by
  apply BitVec.eq_of_toNat_eq
  simp [zextByte]

/-- The word of a call, as a number (30_encoding.md R91). -/
theorem encode_2nnn (nnn : Addr12) : encode (.i2nnn nnn) = BitVec.ofNat 16 (0x2000 + nnn.toNat) := by
  apply BitVec.eq_of_toNat_eq
  show (0x2#4 ++ nnn : BitVec (4 + 12)).toNat = _
  rw [BitVec.toNat_append, ← Nat.shiftLeft_add_eq_or_of_lt nnn.isLt, Nat.shiftLeft_eq, BitVec.toNat_ofNat]
  have := nnn.isLt
  simp
  omega

/-- The decrement of a timer, as a number in a byte. -/
theorem tickDown_eq (t : Byte) : tickDown t = BitVec.ofNat 8 (t.toNat - 1) := by
  apply BitVec.eq_of_toNat_eq
  rw [tickDown_toNat, BitVec.toNat_ofNat, Nat.mod_eq_of_lt]
  omega

/-! ### Calls and returns -/

theorem exec2nnn_push (nnn : Addr12) {t : State} (h : s.push s.pc = some t) :
    exec2nnn nnn s = t.jump (zextAddr nnn) := by simp only [exec2nnn, h]

theorem exec2nnn_overflow (nnn : Addr12) (h : s.sp.val = 16) :
    exec2nnn nnn s = s.raise .stackOverflow (encode (.i2nnn nnn)) := by
  simp only [exec2nnn, s.push_none s.pc h]

theorem exec00EE_pop {a : Word} {t : State} (h : s.pop = some (a, t)) : exec00EE s = t.jump (a + 2) := by
  simp only [exec00EE, h]

theorem exec00EE_underflow (h : s.sp.val = 0) : exec00EE s = s.raise .stackUnderflow (encode .i00EE) := by
  simp only [exec00EE, s.pop_none h]

/-! ### Sprites -/

/-- The state of a completed draw, before `pc` moves. -/
def State.drawn (s : State) (x y n : Nibble) : State :=
  (s.setScreen (drawSprite s.fb (s.bytes s.I.toNat n.toNat) (s.startColumn x) (s.startRow y))).setFlag
    (collides s.fb (s.bytes s.I.toNat n.toNat) (s.startColumn x) (s.startRow y))

theorem execDxyn_ok (x y n : Nibble) (h : n.toNat = 0 ∨ s.I.toNat + n.toNat ≤ 4096) :
    execDxyn x y n s = (s.drawn x y n).advance := by
  unfold execDxyn
  rw [State.indexAddr, s.memRead_some h]
  rfl

theorem execDxyn_fault (x y n : Nibble) (h : 0 < n.toNat) (hb : 4096 < s.I.toNat + n.toNat) :
    execDxyn x y n s = s.raise .dataOob s.I := by
  unfold execDxyn
  rw [State.indexAddr, s.memRead_none h hb]

/-- The model's sprite row and the spec's pixel of a sprite are the same (45_display.md R191, R192). -/
theorem spriteRow_eq_spritePixel (n x0 y0 : Nat) (r : Fin 32) (c : Fin 64) :
    (spriteRow (s.bytes s.I.toNat n) x0 y0 r.val).getMsbD c.val = spritePixel s n x0 y0 r c := by
  rw [spriteRow_getMsbD _ _ _ _ _ c.isLt]
  simp only [spritePixel, State.bytes_length]
  by_cases h : y0 ≤ r.val ∧ r.val < y0 + n
  · rw [State.bytes_getElem? _ _ _ _ (by omega)]
    rfl
  · rw [decide_eq_false (by tauto)]
    simp

/-! ### Keys -/

theorem execEx9E_key (x : Nibble) (h : (s.reg x).toNat < 16) :
    execEx9E x s = s.skipIf s.key[(s.reg x).toNat] := by simp only [execEx9E, keyNumber_some h]; rfl

theorem execEx9E_fault (x : Nibble) (h : 15 < (s.reg x).toNat) :
    execEx9E x s = s.raise .keyOob (zextByte (s.reg x)) := by simp only [execEx9E, keyNumber_none h]

theorem execExA1_key (x : Nibble) (h : (s.reg x).toNat < 16) :
    execExA1 x s = s.skipIf (!s.key[(s.reg x).toNat]) := by simp only [execExA1, keyNumber_some h]; rfl

theorem execExA1_fault (x : Nibble) (h : 15 < (s.reg x).toNat) :
    execExA1 x s = s.raise .keyOob (zextByte (s.reg x)) := by simp only [execExA1, keyNumber_none h]

theorem execFx0A_block (x : Nibble) (h : ∀ k : Fin 16, s.key[k] = false) : execFx0A x s = s.block := by
  simp only [execFx0A, if_pos ((pressedKeys_eq_nil _).2 h)]

theorem execFx0A_key (x : Nibble) (h : ¬ ∀ k : Fin 16, s.key[k] = false) :
    execFx0A x s = (s.setReg x (BitVec.ofNat 8 (selectKey s.cfg s.key).val)).advance := by
  simp only [execFx0A, if_neg fun e => h ((pressedKeys_eq_nil _).1 e)]

/-! ### Accesses at `I` -/

theorem execFx33_ok (x : Nibble) (h : s.I.toNat + 2 ≤ 4095) :
    execFx33 x s = (s.setBytes s.I.toNat (bcdDigits (s.reg x))).advance := by
  simp only [execFx33, State.indexAddr,
    s.memWrite_some (a := s.I.toNat) (bs := bcdDigits (s.reg x)) (by simp [bcdDigits]; omega)]

theorem execFx33_fault (x : Nibble) (h : 4095 < s.I.toNat + 2) : execFx33 x s = s.raise .dataOob s.I := by
  simp only [execFx33, State.indexAddr,
    s.memWrite_none (a := s.I.toNat) (bs := bcdDigits (s.reg x)) (by simp [bcdDigits]) (by simp [bcdDigits]; omega)]

theorem execFx55_ok (x : Nibble) (h : s.I.toNat + x.toNat ≤ 4095) :
    execFx55 x s = (s.setBytes s.I.toNat (s.regsUpTo x)).advance := by
  simp only [execFx55, State.indexAddr,
    s.memWrite_some (a := s.I.toNat) (bs := s.regsUpTo x) (by simp; omega)]

theorem execFx55_fault (x : Nibble) (h : 4095 < s.I.toNat + x.toNat) : execFx55 x s = s.raise .dataOob s.I := by
  simp only [execFx55, State.indexAddr,
    s.memWrite_none (a := s.I.toNat) (bs := s.regsUpTo x) (by simp) (by simp; omega)]

theorem execFx65_ok (x : Nibble) (h : s.I.toNat + x.toNat ≤ 4095) :
    execFx65 x s = (s.setRegs (s.bytes s.I.toNat (x.toNat + 1))).advance := by
  simp only [execFx65, State.indexAddr, s.memRead_some (a := s.I.toNat) (n := x.toNat + 1) (by omega)]

theorem execFx65_fault (x : Nibble) (h : 4095 < s.I.toNat + x.toNat) : execFx65 x s = s.raise .dataOob s.I := by
  simp only [execFx65, State.indexAddr, s.memRead_none (a := s.I.toNat) (n := x.toNat + 1) (by omega) (by omega)]

/-! ### The three ways an instruction ends -/

/-- What no completed instruction writes: the fault registers, the parameters, the keys, the input byte. -/
def Untouched (s u : State) : Prop :=
  u.fault = s.fault ∧ u.cause = s.cause ∧ u.epc = s.epc ∧ u.einfo = s.einfo ∧ u.cfg = s.cfg ∧ u.key = s.key ∧
  u.rndIn = s.rndIn

theorem Untouched.setBytes (a : Nat) (bs : List Byte) : Untouched s (s.setBytes a bs) := by simp [Untouched]

theorem Untouched.drawn (x y n : Nibble) : Untouched s (s.drawn x y n) := by
  simp [Untouched, State.drawn, State.setFlag]

/-- A skip is a jump of the state it leaves otherwise unchanged. -/
theorem State.skipIf_jump (c : Bool) : s.skipIf c = s.jump (s.pc + if c then 4 else 2) := by cases c <;> rfl

/-- The ways an instruction ends: it takes the fault the table names; it is Fx0A with no key pressed and blocks; or it
completes, having written neither the fault registers nor the parameters, keys or input. -/
theorem exec_shape (i : Instr) (s : State) :
    (∃ c info, faultOf s i = some (c, info) ∧ exec i s = s.raise c info) ∨
    (faultOf s i = none ∧ (∃ x, i = .iFx0A x) ∧ (∀ k : Fin 16, s.key[k] = false) ∧ exec i s = s.block) ∨
    (faultOf s i = none ∧ ¬ ((∃ x, i = .iFx0A x) ∧ ∀ k : Fin 16, s.key[k] = false) ∧
      ∃ u a, exec i s = u.jump a ∧ Untouched s u) := by
  cases i with
  | i00EE =>
    by_cases h : s.sp.val = 0
    · exact .inl ⟨_, _, if_pos h, exec00EE_underflow s h⟩
    · exact .inr (.inr ⟨if_neg h, by simp, _, _, exec00EE_pop s (s.pop_some h), by simp [Untouched]⟩)
  | i2nnn nnn =>
    by_cases h : s.sp.val = 16
    · exact .inl ⟨_, _, if_pos h, by rw [exec, exec2nnn_overflow s nnn h, encode_2nnn]⟩
    · have := s.sp.isLt
      exact .inr (.inr ⟨if_neg h, by simp, _, _,
        exec2nnn_push s nnn (s.push_some s.pc (by omega)), by simp [Untouched]⟩)
  | iDxyn x y n =>
    by_cases h : 0 < n.toNat ∧ 4095 < s.I.toNat + n.toNat - 1
    · exact .inl ⟨_, _, if_pos h, execDxyn_fault s x y n h.1 (by omega)⟩
    · exact .inr (.inr ⟨if_neg h, by simp, _, _, execDxyn_ok s x y n (by omega), .drawn ..⟩)
  | iFx33 x =>
    by_cases h : 4095 < s.I.toNat + 2
    · exact .inl ⟨_, _, if_pos h, execFx33_fault s x h⟩
    · exact .inr (.inr ⟨if_neg h, by simp, _, _, execFx33_ok s x (by omega), .setBytes ..⟩)
  | iFx55 x =>
    by_cases h : 4095 < s.I.toNat + x.toNat
    · exact .inl ⟨_, _, if_pos h, execFx55_fault s x h⟩
    · exact .inr (.inr ⟨if_neg h, by simp, _, _, execFx55_ok s x (by omega), .setBytes ..⟩)
  | iFx65 x =>
    by_cases h : 4095 < s.I.toNat + x.toNat
    · exact .inl ⟨_, _, if_pos h, execFx65_fault s x h⟩
    · exact .inr (.inr ⟨if_neg h, by simp, _, _, execFx65_ok s x (by omega), by simp [Untouched]⟩)
  | iEx9E x =>
    by_cases h : 15 < (s.reg x).toNat
    · exact .inl ⟨_, _, if_pos h, by rw [exec, execEx9E_fault s x h, zextByte_eq]⟩
    · exact .inr (.inr ⟨if_neg h, by simp, _, _,
        (execEx9E_key s x (by omega)).trans (State.skipIf_jump ..), by simp [Untouched]⟩)
  | iExA1 x =>
    by_cases h : 15 < (s.reg x).toNat
    · exact .inl ⟨_, _, if_pos h, by rw [exec, execExA1_fault s x h, zextByte_eq]⟩
    · exact .inr (.inr ⟨if_neg h, by simp, _, _,
        (execExA1_key s x (by omega)).trans (State.skipIf_jump ..), by simp [Untouched]⟩)
  | iFx0A x =>
    by_cases h : ∀ k : Fin 16, s.key[k] = false
    · exact .inr (.inl ⟨rfl, ⟨x, rfl⟩, h, execFx0A_block s x h⟩)
    · exact .inr (.inr ⟨rfl, fun e => h e.2, _, _, execFx0A_key s x h, by simp [Untouched]⟩)
  | i3xnn | i4xnn | i5xy0 | i9xy0 =>
    exact .inr (.inr ⟨rfl, by simp, _, _, State.skipIf_jump .., by simp [Untouched]⟩)
  | i00E0 | i1nnn | i6xnn | i7xnn | i8xy0 | i8xy1 | i8xy2 | i8xy3 | i8xy4 | i8xy5 | i8xy6 | i8xy7 | i8xyE | iAnnn
  | iBnnn | iCxnn | iFx07 | iFx15 | iFx18 | iFx1E | iFx29 =>
    exact .inr (.inr ⟨rfl, by simp, _, _, rfl, by simp [Untouched, State.setResultAndFlag, State.setFlag]⟩)

/-- A fault of the table is taken. -/
theorem exec_eq_raise {i : Instr} {c : Cause} {info : Word} (h : faultOf s i = some (c, info)) :
    exec i s = s.raise c info := by
  rcases exec_shape i s with ⟨c', info', h', he⟩ | ⟨h', -⟩ | ⟨h', -⟩
  · rw [h] at h'
    cases h'
    exact he
  all_goals rw [h] at h'; cases h'

/-- A fault entry writes the four registers and the result, and nothing else (60_exceptions.md R243, R244). -/
theorem faultTaken_raise (c : Cause) (info : Word) :
    FaultTaken s ((s.latch c info).setResult (.fault c info)) c info := by
  refine ⟨rfl, rfl, rfl, rfl, rfl, fun p hp => ?_⟩
  cases p <;> simp_all [Same]

/-! ### The step -/

theorem State.fetch_some (h : s.pc.toNat + 1 ≤ 4095) :
    s.fetch = some (wordOf (s.byte s.pc.toNat) (s.byte (s.pc.toNat + 1))) := by rw [s.fetch_eq, if_pos h]

theorem step_halted (h : s.fault = true) : step s = s.haltedStep := by simp only [step, h, if_true]

theorem step_fetchFault (h : s.fault = false) (hf : s.fetch = none) : step s = s.fetchFault := by
  simp only [step, h, hf, Bool.false_eq_true, if_false]

theorem step_unrecognised (h : s.fault = false) {op : Word} (hf : s.fetch = some op) (hd : decode op = none) :
    step s = s.unrecognisedWord op := by
  simp only [step, h, hf, hd, Bool.false_eq_true, if_false]

/-- The step that executes an instruction. -/
theorem step_exec {i : Instr} (h : s.nextInstr = some i) : step s = endStep (exec i s) := by
  unfold State.nextInstr at h
  cases hf : s.fault with
  | true => simp [hf] at h
  | false =>
    simp only [hf, Bool.false_eq_true, if_false, Option.bind_eq_some_iff] at h
    obtain ⟨op, ho, hd⟩ := h
    simp only [step, hf, ho, hd, Bool.false_eq_true, if_false]

/-- The four ways a step goes: halted, fetch fault, unrecognised word, instruction (40_step_cycle.md R120). -/
theorem step_cases :
    (s.fault = true ∧ s.nextInstr = none ∧ step s = s.haltedStep) ∨
    (s.fault = false ∧ 4095 < s.pc.toNat + 1 ∧ s.nextInstr = none ∧ step s = s.fetchFault) ∨
    (∃ op, s.fault = false ∧ s.pc.toNat + 1 ≤ 4095 ∧ s.nextInstr = none ∧ step s = s.unrecognisedWord op) ∨
    (∃ i, s.fault = false ∧ s.pc.toNat + 1 ≤ 4095 ∧ s.nextInstr = some i ∧ step s = endStep (exec i s)) := by
  cases hf : s.fault with
  | true => exact .inl ⟨rfl, by simp [State.nextInstr, hf], step_halted s hf⟩
  | false =>
    by_cases hp : s.pc.toNat + 1 ≤ 4095
    · have ho := s.fetch_some hp
      cases hd : decode (wordOf (s.byte s.pc.toNat) (s.byte (s.pc.toNat + 1))) with
      | none =>
        exact .inr (.inr (.inl ⟨_, rfl, hp, by simp [State.nextInstr, hf, ho, hd], step_unrecognised s hf ho hd⟩))
      | some i =>
        have hn : s.nextInstr = some i := by simp [State.nextInstr, hf, ho, hd]
        exact .inr (.inr (.inr ⟨i, rfl, hp, hn, step_exec s hn⟩))
    · have ho : s.fetch = none := by rw [s.fetch_eq, if_neg hp]
      exact .inr (.inl ⟨rfl, by omega, by simp [State.nextInstr, hf, ho], step_fetchFault s hf ho⟩)

end Sys2Proof.Machine
end

