-- ==== Sys2Proof/Laws/PerInstr.lean ====
section
/-! SUPPORT. Facts about every instruction as syntax, one lemma for each constructor. Family `TableRow`: the encoding of an
instruction matches the row of 30_encoding.md R96 it belongs to, and that row stands in the table. -/

namespace Sys2Proof.Laws.TableRow

/-- `encode i AND mask = match` for the row of `i`, which is one of the 34 rows (R96). -/
def Statement (i : Instr) : Prop := encode i &&& i.row.mask = i.row.value ∧ i.row ∈ rows

theorem i00E0 : Statement (.i00E0) :=
  ⟨by decide, by decide⟩

theorem i00EE : Statement (.i00EE) :=
  ⟨by decide, by decide⟩

theorem i1nnn (nnn : Addr12) : Statement (.i1nnn nnn) :=
  ⟨wordNNN_and_top 0x1 nnn, by simp [rows, Instr.row]⟩

theorem i2nnn (nnn : Addr12) : Statement (.i2nnn nnn) :=
  ⟨wordNNN_and_top 0x2 nnn, by simp [rows, Instr.row]⟩

theorem i3xnn (x : Nibble) (nn : Byte) : Statement (.i3xnn x nn) :=
  ⟨wordXNN_and_top 0x3 x nn, by simp [rows, Instr.row]⟩

theorem i4xnn (x : Nibble) (nn : Byte) : Statement (.i4xnn x nn) :=
  ⟨wordXNN_and_top 0x4 x nn, by simp [rows, Instr.row]⟩

theorem i5xy0 (x : Nibble) (y : Nibble) : Statement (.i5xy0 x y) :=
  ⟨wordXYN_and_mask 0x5 x y 0x0, by simp [rows, Instr.row]⟩

theorem i6xnn (x : Nibble) (nn : Byte) : Statement (.i6xnn x nn) :=
  ⟨wordXNN_and_top 0x6 x nn, by simp [rows, Instr.row]⟩

theorem i7xnn (x : Nibble) (nn : Byte) : Statement (.i7xnn x nn) :=
  ⟨wordXNN_and_top 0x7 x nn, by simp [rows, Instr.row]⟩

theorem i8xy0 (x : Nibble) (y : Nibble) : Statement (.i8xy0 x y) :=
  ⟨wordXYN_and_mask 0x8 x y 0x0, by simp [rows, Instr.row]⟩

theorem i8xy1 (x : Nibble) (y : Nibble) : Statement (.i8xy1 x y) :=
  ⟨wordXYN_and_mask 0x8 x y 0x1, by simp [rows, Instr.row]⟩

theorem i8xy2 (x : Nibble) (y : Nibble) : Statement (.i8xy2 x y) :=
  ⟨wordXYN_and_mask 0x8 x y 0x2, by simp [rows, Instr.row]⟩

theorem i8xy3 (x : Nibble) (y : Nibble) : Statement (.i8xy3 x y) :=
  ⟨wordXYN_and_mask 0x8 x y 0x3, by simp [rows, Instr.row]⟩

theorem i8xy4 (x : Nibble) (y : Nibble) : Statement (.i8xy4 x y) :=
  ⟨wordXYN_and_mask 0x8 x y 0x4, by simp [rows, Instr.row]⟩

theorem i8xy5 (x : Nibble) (y : Nibble) : Statement (.i8xy5 x y) :=
  ⟨wordXYN_and_mask 0x8 x y 0x5, by simp [rows, Instr.row]⟩

theorem i8xy6 (x : Nibble) (y : Nibble) : Statement (.i8xy6 x y) :=
  ⟨wordXYN_and_mask 0x8 x y 0x6, by simp [rows, Instr.row]⟩

theorem i8xy7 (x : Nibble) (y : Nibble) : Statement (.i8xy7 x y) :=
  ⟨wordXYN_and_mask 0x8 x y 0x7, by simp [rows, Instr.row]⟩

theorem i8xyE (x : Nibble) (y : Nibble) : Statement (.i8xyE x y) :=
  ⟨wordXYN_and_mask 0x8 x y 0xE, by simp [rows, Instr.row]⟩

theorem i9xy0 (x : Nibble) (y : Nibble) : Statement (.i9xy0 x y) :=
  ⟨wordXYN_and_mask 0x9 x y 0x0, by simp [rows, Instr.row]⟩

theorem iAnnn (nnn : Addr12) : Statement (.iAnnn nnn) :=
  ⟨wordNNN_and_top 0xA nnn, by simp [rows, Instr.row]⟩

theorem iBnnn (nnn : Addr12) : Statement (.iBnnn nnn) :=
  ⟨wordNNN_and_top 0xB nnn, by simp [rows, Instr.row]⟩

theorem iCxnn (x : Nibble) (nn : Byte) : Statement (.iCxnn x nn) :=
  ⟨wordXNN_and_top 0xC x nn, by simp [rows, Instr.row]⟩

theorem iDxyn (x : Nibble) (y : Nibble) (n : Nibble) : Statement (.iDxyn x y n) :=
  ⟨wordXYN_and_top 0xD x y n, by simp [rows, Instr.row]⟩

theorem iEx9E (x : Nibble) : Statement (.iEx9E x) :=
  ⟨wordXNN_and_mask 0xE x 0x9E, by simp [rows, Instr.row]⟩

theorem iExA1 (x : Nibble) : Statement (.iExA1 x) :=
  ⟨wordXNN_and_mask 0xE x 0xA1, by simp [rows, Instr.row]⟩

theorem iFx07 (x : Nibble) : Statement (.iFx07 x) :=
  ⟨wordXNN_and_mask 0xF x 0x07, by simp [rows, Instr.row]⟩

theorem iFx0A (x : Nibble) : Statement (.iFx0A x) :=
  ⟨wordXNN_and_mask 0xF x 0x0A, by simp [rows, Instr.row]⟩

theorem iFx15 (x : Nibble) : Statement (.iFx15 x) :=
  ⟨wordXNN_and_mask 0xF x 0x15, by simp [rows, Instr.row]⟩

theorem iFx18 (x : Nibble) : Statement (.iFx18 x) :=
  ⟨wordXNN_and_mask 0xF x 0x18, by simp [rows, Instr.row]⟩

theorem iFx1E (x : Nibble) : Statement (.iFx1E x) :=
  ⟨wordXNN_and_mask 0xF x 0x1E, by simp [rows, Instr.row]⟩

theorem iFx29 (x : Nibble) : Statement (.iFx29 x) :=
  ⟨wordXNN_and_mask 0xF x 0x29, by simp [rows, Instr.row]⟩

theorem iFx33 (x : Nibble) : Statement (.iFx33 x) :=
  ⟨wordXNN_and_mask 0xF x 0x33, by simp [rows, Instr.row]⟩

theorem iFx55 (x : Nibble) : Statement (.iFx55 x) :=
  ⟨wordXNN_and_mask 0xF x 0x55, by simp [rows, Instr.row]⟩

theorem iFx65 (x : Nibble) : Statement (.iFx65 x) :=
  ⟨wordXNN_and_mask 0xF x 0x65, by simp [rows, Instr.row]⟩

end Sys2Proof.Laws.TableRow
end

