-- ==== Sys2Proof/Tests/Slice0.lean ====
section
/-! SUPPORT. Tests of single steps and witnesses of the hypotheses of the obligations. Expected results come from
spec/95_test_vectors.md, whose vector is named in each comment (C, S, I, A, D, K, T, M, X, H); words are written out from
30_encoding.md R91 and R96. -/

open Sys2Proof Sys2Proof.Machine

namespace Sys2Proof.Tests

/-! ### Helpers -/

/-- The reset state, changed, with a word at the address of the next fetch. -/
def ready (op : Nat) (f : State → State) : State := (f State.reset).withFetchWord 16 op

/-- The state after one step of that word. -/
def one (op : Nat) (f : State → State := id) : State := (ready op f).after

/-- The state an answer leaves. -/
def left (a : Answer) : State :=
  match a with
  | .next t => t
  | _ => State.reset

/-- Registers set from a list of numbers and values. -/
def withRegs (l : List (Nibble × Byte)) (s : State) : State := l.foldl (fun s p => s.setReg p.1 p.2) s

/-- The parameters changed. -/
def withCfg (f : Config → Config) (s : State) : State := { s with cfg := f s.cfg }

/-- The stack pointer set. -/
def withSp (n : Fin 17) (s : State) : State := { s with sp := n }

/-- A stack slot set. -/
def withSlot (k : Fin 16) (a : Word) (s : State) : State := { s with stack := s.stack.set k.val a k.isLt }

/-- The rows of the screen from the first on. -/
def withRows (l : List PixelRow) (s : State) : State := { s with fb := Vector.ofFn fun r => (l[r.val]?).getD 0 }

/-- The first rows of a screen whose other rows are clear. -/
def screen (s : State) (l : List PixelRow) : Bool := s.fb.toList == l ++ List.replicate (32 - l.length) 0

/-- The fault registers and `pc` after a fault. -/
def faulted (s : State) (c : Cause) (epc info : Word) : Bool :=
  s.fault && s.cause == c && s.epc == epc && s.einfo == info && s.result == some (.fault c info) && s.pc == epc

/-- A halted core, at an even address. -/
def halted : State := left ((State.reset.setPc 4095).raise .fetchOob 4095)

/-! ### Encoding: the opcode table, refused words, one word of each row -/

/-- The rows are disjoint: two rows differ in a bit that both fix (R96). -/
theorem test_rows_disjoint :
    rows.Pairwise fun r q => r.value &&& (r.mask &&& q.mask) ≠ q.value &&& (r.mask &&& q.mask) := by decide

/-- No row asks for a bit outside its mask. -/
theorem test_rows_values_in_masks : rows.all (fun r => r.value &&& r.mask == r.value) = true := by decide

/-- The check refuses a word of each class of R100 (X7, X9, X10, S13, S14, A50, A51). -/
theorem test_refused_words :
    [0x0000, 0x00E1, 0x00FF, 0x0123, 0x00EF, 0x5121, 0x8128, 0x812F, 0x9121, 0xE09D, 0xE0A2, 0xE000, 0xE29F, 0xF000,
      0xF075, 0xF085, 0xF01F].all (fun op => !wellFormedWord op && decode op == none) = true := by decide

/-- Decoding is total on bytes and rejects by name. -/
theorem test_rejected_bytes :
    decodeBytes [0x51, 0x21, 0x07] = .unrecognised 0x5121 [0x07] ∧ decodeBytes [0xD7] = .truncated ∧
    decodeBytes [] = .truncated := by decide

/-- Field extraction of 0xD7A5 (95_test_vectors.md 2.9). -/
theorem test_fields :
    opTop 0xD7A5 = 0xD ∧ opX 0xD7A5 = 7 ∧ opY 0xD7A5 = 0xA ∧ opN 0xD7A5 = 5 ∧ opNN 0xD7A5 = 0xA5 ∧ opNNN 0xD7A5 = 0x7A5 ∧
    decodeBytes [0xD7, 0xA5] = .instr (.iDxyn 7 10 5) [] := by decide

theorem test_decode_00E0 : decode 0b0000000011100000 = some .i00E0 := by decide
theorem test_decode_00EE : decode 0b0000000011101110 = some .i00EE := by decide
theorem test_decode_1nnn : decode 0b0001101010111100 = some (.i1nnn 0xABC) := by decide
theorem test_decode_2nnn : decode 0b0010101010111100 = some (.i2nnn 0xABC) := by decide
theorem test_decode_3xnn : decode 0b0011101001101101 = some (.i3xnn 0xA 0x6D) := by decide
theorem test_decode_4xnn : decode 0b0100101001101101 = some (.i4xnn 0xA 0x6D) := by decide
theorem test_decode_5xy0 : decode 0b0101101010110000 = some (.i5xy0 0xA 0xB) := by decide
theorem test_decode_6xnn : decode 0b0110101001101101 = some (.i6xnn 0xA 0x6D) := by decide
theorem test_decode_7xnn : decode 0b0111101001101101 = some (.i7xnn 0xA 0x6D) := by decide
theorem test_decode_8xy0 : decode 0b1000000111100000 = some (.i8xy0 1 14) := by decide
theorem test_decode_8xy1 : decode 0b1000000111100001 = some (.i8xy1 1 14) := by decide
theorem test_decode_8xy2 : decode 0b1000000111100010 = some (.i8xy2 1 14) := by decide
theorem test_decode_8xy3 : decode 0b1000000111100011 = some (.i8xy3 1 14) := by decide
theorem test_decode_8xy4 : decode 0b1000000111100100 = some (.i8xy4 1 14) := by decide
theorem test_decode_8xy5 : decode 0b1000000111100101 = some (.i8xy5 1 14) := by decide
theorem test_decode_8xy6 : decode 0b1000000111100110 = some (.i8xy6 1 14) := by decide
theorem test_decode_8xy7 : decode 0b1000000111100111 = some (.i8xy7 1 14) := by decide
theorem test_decode_8xyE : decode 0b1000000111101110 = some (.i8xyE 1 14) := by decide
theorem test_decode_9xy0 : decode 0b1001101010110000 = some (.i9xy0 0xA 0xB) := by decide
theorem test_decode_Annn : decode 0b1010101010111100 = some (.iAnnn 0xABC) := by decide
theorem test_decode_Bnnn : decode 0b1011101010111100 = some (.iBnnn 0xABC) := by decide
theorem test_decode_Cxnn : decode 0b1100101001101101 = some (.iCxnn 0xA 0x6D) := by decide
theorem test_decode_Dxyn : decode 0b1101011110100101 = some (.iDxyn 7 10 5) := by decide
theorem test_decode_Ex9E : decode 0b1110110110011110 = some (.iEx9E 13) := by decide
theorem test_decode_ExA1 : decode 0b1110110110100001 = some (.iExA1 13) := by decide
theorem test_decode_Fx07 : decode 0b1111110100000111 = some (.iFx07 13) := by decide
theorem test_decode_Fx0A : decode 0b1111110100001010 = some (.iFx0A 13) := by decide
theorem test_decode_Fx15 : decode 0b1111110100010101 = some (.iFx15 13) := by decide
theorem test_decode_Fx18 : decode 0b1111110100011000 = some (.iFx18 13) := by decide
theorem test_decode_Fx1E : decode 0b1111110100011110 = some (.iFx1E 13) := by decide
theorem test_decode_Fx29 : decode 0b1111110100101001 = some (.iFx29 13) := by decide
theorem test_decode_Fx33 : decode 0b1111110100110011 = some (.iFx33 13) := by decide
theorem test_decode_Fx55 : decode 0b1111110101010101 = some (.iFx55 13) := by decide
theorem test_decode_Fx65 : decode 0b1111110101100101 = some (.iFx65 13) := by decide

/-! ### Control transfer -/

/-- C1. -/
theorem test_1nnn : (one 0x1234).pc = 0x234 ∧ (one 0x1234).result = some .ok := by decide

/-- C5: the last free slot. -/
theorem test_2nnn :
    let t := one 0x2300 (withSp 15)
    t.stack[15] = 0x200 ∧ t.sp = 16 ∧ t.pc = 0x300 := by decide

/-- C6: overflow, with no tick. -/
theorem test_2nnn_overflow :
    let t := one 0x2300 fun s => withSp 16 (s.setDelay 3)
    faulted t .stackOverflow 0x200 0x2300 = true ∧ t.sp = 16 ∧ t.stack[15] = 0 ∧ t.dt = 3 := by decide

/-- C7: the slot is not cleared. -/
theorem test_00EE :
    let t := one 0x00EE fun s => withSp 1 (withSlot 0 0x200 (s.setPc 0x300))
    t.sp = 0 ∧ t.pc = 0x202 ∧ t.stack[0] = 0x200 := by decide

/-- C8. -/
theorem test_00EE_underflow : faulted (one 0x00EE fun s => s.setPc 0x300) .stackUnderflow 0x300 0x00EE = true := by
  decide

/-- C10: V0, never V3. -/
theorem test_Bnnn : (one 0xB300 (withRegs [(0, 1), (3, 0x80)])).pc = 0x301 := by decide

/-- C11: the sum is not reduced. -/
theorem test_Bnnn_carry : (one 0xBFFF (withRegs [(0, 0xFF)])).pc = 0x10FE := by decide

/-! ### Skips -/

/-- S1, S2. -/
theorem test_3xnn :
    (one 0x332A (withRegs [(3, 0x2A)])).pc = 0x204 ∧ (one 0x332B (withRegs [(3, 0x2A)])).pc = 0x202 := by decide

/-- S15: past the end of memory. -/
theorem test_3xnn_end : (one 0x3000 fun s => s.setPc 0xFFE).pc = 0x1002 := by decide

/-- S3, S4. -/
theorem test_4xnn :
    (one 0x432A (withRegs [(3, 0x2A)])).pc = 0x202 ∧ (one 0x432B (withRegs [(3, 0x2A)])).pc = 0x204 := by decide

/-- S5, S6: `SNE_SWAPPED`. -/
theorem test_4xnn_swapped :
    let f := fun s => withRegs [(3, 0x2A)] (withCfg (fun c => { c with sneSwapped := true }) s)
    (one 0x432A f).pc = 0x204 ∧ (one 0x432B f).pc = 0x202 := by decide

/-- S7, S8. -/
theorem test_5xy0 :
    (one 0x5120 (withRegs [(1, 7), (2, 7)])).pc = 0x204 ∧ (one 0x5120 (withRegs [(1, 7), (2, 8)])).pc = 0x202 := by decide

/-- S9, S10. -/
theorem test_9xy0 :
    (one 0x9120 (withRegs [(1, 7), (2, 8)])).pc = 0x204 ∧ (one 0x9120 (withRegs [(1, 7), (2, 7)])).pc = 0x202 := by decide

/-! ### Immediates and the random byte -/

/-- I1. -/
theorem test_6xnn : (one 0x6A3C).reg 0xA = 0x3C ∧ (one 0x6A3C).pc = 0x202 := by decide

/-- I3: no carry flag. -/
theorem test_7xnn :
    let t := one 0x7120 (withRegs [(1, 0xF0), (0xF, 0x77)])
    t.reg 1 = 0x10 ∧ t.reg 0xF = 0x77 := by decide

/-- I6. -/
theorem test_Annn : (one 0xA2F0).I = 0x02F0 := by decide

/-- I8, I11. -/
theorem test_Cxnn :
    (one 0xC30F fun s => s.setRndIn (some 0xB7)).reg 3 = 0x07 ∧
    (left (stepWith 0xB7 (ready 0xCFF0 id))).reg 0xF = 0xB0 := by decide

/-! ### Arithmetic -/

/-- A1. -/
theorem test_8xy0 :
    let t := one 0x8120 (withRegs [(1, 0x11), (2, 0x5A), (0xF, 0x77)])
    t.reg 1 = 0x5A ∧ t.reg 0xF = 0x77 := by decide

/-- A4. -/
theorem test_8xy1 :
    let t := one 0x8121 (withRegs [(1, 0xF0), (2, 0x0F), (0xF, 0x77)])
    t.reg 1 = 0xFF ∧ t.reg 0xF = 0x77 := by decide

/-- A5. -/
theorem test_8xy2 :
    let t := one 0x8122 (withRegs [(1, 0xF3), (2, 0x3C), (0xF, 0x77)])
    t.reg 1 = 0x30 ∧ t.reg 0xF = 0x77 := by decide

/-- A6. -/
theorem test_8xy3 :
    let t := one 0x8123 (withRegs [(1, 0xFF), (2, 0x0F), (0xF, 0x77)])
    t.reg 1 = 0xF0 ∧ t.reg 0xF = 0x77 := by decide

/-- A10, A11. -/
theorem test_8xy4 :
    let t := one 0x8124 (withRegs [(1, 0xC8), (2, 0x64)])
    let u := one 0x8124 (withRegs [(1, 0x7F), (2, 0x80), (0xF, 1)])
    t.reg 1 = 0x2C ∧ t.reg 0xF = 1 ∧ u.reg 1 = 0xFF ∧ u.reg 0xF = 0 := by decide

/-- A16, A17: VF as destination and as source. -/
theorem test_8xy4_vf :
    let u := one 0x81F4 (withRegs [(1, 0xFF), (0xF, 1)])
    (one 0x8F24 (withRegs [(2, 1), (0xF, 0x10)])).reg 0xF = 0 ∧ u.reg 1 = 0 ∧ u.reg 0xF = 1 := by decide

/-- A20, A22. -/
theorem test_8xy5 :
    let t := one 0x8125 (withRegs [(1, 1), (2, 2), (0xF, 1)])
    let u := one 0x8125 (withRegs [(1, 0x42), (2, 0x42)])
    t.reg 1 = 0xFF ∧ t.reg 0xF = 0 ∧ u.reg 1 = 0 ∧ u.reg 0xF = 1 := by decide

/-- A26, A28. -/
theorem test_8xy5_vf :
    let u := one 0x81F5 (withRegs [(1, 5), (0xF, 6)])
    (one 0x8F25 (withRegs [(2, 1), (0xF, 5)])).reg 0xF = 1 ∧ u.reg 1 = 0xFF ∧ u.reg 0xF = 0 := by decide

/-- A35, A41. -/
theorem test_8xy6 :
    let t := one 0x8126 (withRegs [(1, 5), (2, 0xF0)])
    t.reg 1 = 2 ∧ t.reg 2 = 0xF0 ∧ t.reg 0xF = 1 ∧ (one 0x8F26 (withRegs [(0xF, 2)])).reg 0xF = 0 := by decide

/-- A53, A58: `SHIFT_USES_VY`. -/
theorem test_8xy6_vy :
    let f := fun l s => withRegs l (withCfg (fun c => { c with shiftUsesVy := true }) s)
    let t := one 0x8126 (f [(1, 0xAA), (2, 3)])
    t.reg 1 = 1 ∧ t.reg 0xF = 1 ∧ (one 0x8F26 (f [(2, 6), (0xF, 1)])).reg 0xF = 0 := by decide

/-- A31, A33. -/
theorem test_8xy7 :
    let t := one 0x8127 (withRegs [(1, 0xA), (2, 3), (0xF, 1)])
    t.reg 1 = 0xF9 ∧ t.reg 0xF = 0 ∧ (one 0x8F27 (withRegs [(2, 6), (0xF, 5)])).reg 0xF = 1 := by decide

/-- A43, A48. -/
theorem test_8xyE :
    let t := one 0x812E (withRegs [(1, 0x81), (2, 0x0F)])
    t.reg 1 = 2 ∧ t.reg 0xF = 1 ∧ (one 0x8F2E (withRegs [(0xF, 0x41)])).reg 0xF = 0 := by decide

/-- A54: `SHIFT_USES_VY`. -/
theorem test_8xyE_vy :
    let t := one 0x812E fun s =>
      withRegs [(1, 0x81), (2, 0x0F), (0xF, 1)] (withCfg (fun c => { c with shiftUsesVy := true }) s)
    t.reg 1 = 0x1E ∧ t.reg 0xF = 0 := by decide

/-! ### Display -/

/-- D1. -/
theorem test_00E0 :
    let t := one 0x00E0 fun s => withRegs [(0xF, 0x55)] (withRows [0x8000000000000001] s)
    screen t [] = true ∧ t.redraw = true ∧ t.reg 0xF = 0x55 := by decide

/-- D4: glyph 1 over glyph 0. -/
theorem test_Dxyn :
    let g0 : List PixelRow := [0xF <<< 60, 0x9 <<< 60, 0x9 <<< 60, 0x9 <<< 60, 0xF <<< 60]
    let t := one 0xD015 fun s => withRows g0 (s.setIndex 0x55)
    screen t [0xD <<< 60, 0xF <<< 60, 0xB <<< 60, 0xB <<< 60, 0x8 <<< 60] = true ∧ t.reg 0xF = 1 ∧
    t.redraw = true ∧ t.pc = 0x202 := by decide

/-- D6, D14: clipped bits cannot collide; a sprite past the end of memory draws nothing. -/
theorem test_Dxyn_edges :
    let t := one 0xD011 fun s =>
      withRegs [(0, 60)] (withRows [1 <<< 63, 1 <<< 3] ((s.setByte 0x300 0xFF).setIndex 0x300))
    let u := one 0xD015 fun s => withRegs [(0xF, 0x33)] (s.setIndex 4092)
    screen t [1 <<< 63 ||| 0xF, 1 <<< 3] = true ∧ t.reg 0xF = 0 ∧
    faulted u .dataOob 0x200 0x0FFC = true ∧ screen u [] = true ∧ u.reg 0xF = 0x33 ∧ u.redraw = false := by decide

/-! ### Keypad -/

/-- K1, K3. -/
theorem test_Ex9E :
    (one 0xE29E fun s => (s.setReg 2 5).setKeyState 5 true).pc = 0x204 ∧
    (one 0xE29E fun s => s.setReg 2 5).pc = 0x202 := by
  decide

/-- K7: the key number is not masked. -/
theorem test_Ex9E_fault :
    faulted (one 0xE29E fun s => (s.setReg 2 0xF5).setKeyState 5 true) .keyOob 0x200 0x00F5 = true := by decide

/-- K2, K4. -/
theorem test_ExA1 :
    (one 0xE2A1 fun s => (s.setReg 2 5).setKeyState 5 true).pc = 0x202 ∧
    (one 0xE2A1 fun s => s.setReg 2 5).pc = 0x204 := by
  decide

/-- K6. -/
theorem test_ExA1_fault :
    let t := one 0xE2A1 fun s => (s.setReg 2 16).setDelay 4
    faulted t .keyOob 0x200 0x0010 = true ∧ t.dt = 4 := by decide

/-- K9, first step, and T12: blocked, with no tick. -/
theorem test_Fx0A_blocked :
    let t := one 0xF30A fun s => (s.setReg 3 0xAA).setDelay 9
    t.result = some .blocked ∧ t.pc = 0x200 ∧ t.dt = 9 ∧ t.reg 3 = 0xAA := by decide

/-- K10, K11: the lowest key, and the highest with `KEY_SELECT` = highest. -/
theorem test_Fx0A :
    let f := fun s : State => (s.setKeyState 7 true).setKeyState 2 true
    (one 0xF30A f).reg 3 = 2 ∧ (one 0xF30A f).pc = 0x202 ∧
    (one 0xF30A fun s => withCfg (fun c => { c with keySelect := .highest }) (f s)).reg 3 = 7 := by decide

/-! ### Timers -/

/-- T1: the value from before the tick. -/
theorem test_Fx07 : (one 0xF407 fun s => s.setDelay 16).reg 4 = 16 ∧ (one 0xF407 fun s => s.setDelay 16).dt = 15 := by
  decide

/-- T4, T5. -/
theorem test_Fx15 : (one 0xF415 fun s => s.setReg 4 0x3C).dt = 59 ∧ (one 0xF415 fun s => s.setDelay 7).dt = 0 := by decide

/-- T7. -/
theorem test_Fx18 :
    let t := one 0xF418 fun s => (s.setReg 4 0xFF).setDelay 3
    t.st = 254 ∧ t.dt = 2 := by decide

/-- T9: an unrecognised word ticks. -/
theorem test_unrecognised :
    let t := one 0x0000 fun s => (s.setDelay 3).setSound 1
    t.pc = 0x202 ∧ t.dt = 2 ∧ t.st = 0 ∧ t.result = some (.decodeError 0x0000 0x200) := by decide

/-! ### Index and memory -/

/-- M3. -/
theorem test_Fx1E : (one 0xF21E fun s => (s.setReg 2 2).setIndex 0xFFFF).I = 1 := by decide

/-- M6, M9: the whole of Vx. -/
theorem test_Fx29 : (one 0xF129 fun s => s.setReg 1 0x0A).I = 0x82 ∧ (one 0xF129 fun s => s.setReg 1 0xFF).I = 0x54B := by
  decide

/-- M15, M17. -/
theorem test_Fx33 :
    let t := one 0xF133 fun s => (s.setReg 1 255).setIndex 4093
    let u := one 0xF133 fun s => (s.setReg 1 123).setIndex 0x50
    t.bytes 4093 3 = [2, 5, 5] ∧ u.bytes 0x50 5 = [1, 2, 3, 0x90, 0xF0] := by decide

/-- M16. -/
theorem test_Fx33_fault :
    let t := one 0xF133 fun s => (((s.setReg 1 255).setIndex 4094).setByte 4094 0xEE).setByte 4095 0xEE
    faulted t .dataOob 0x200 0x0FFE = true ∧ t.bytes 4094 2 = [0xEE, 0xEE] := by decide

/-- M18. -/
theorem test_Fx55 :
    let t := one 0xF255 fun s => withRegs [(0, 0x11), (1, 0x22), (2, 0x33), (3, 0x44)] (s.setIndex 0x400)
    t.bytes 0x400 4 = [0x11, 0x22, 0x33, 0] ∧ t.I = 0x400 := by decide

/-- M23, M25. -/
theorem test_Fx55_edges :
    (one 0xF055 fun s => (s.setReg 0 0x11).setIndex 4095).byte 4095 = 0x11 ∧
    faulted (one 0xF355 fun s => s.setIndex 0xFFFF) .dataOob 0x200 0xFFFF = true := by decide

/-- M28. -/
theorem test_Fx65 :
    let t := one 0xF465 fun s => s.setIndex 0x50
    t.V.toList = [0xF0, 0x90, 0x90, 0x90, 0xF0] ++ List.replicate 11 0 := by decide

/-- M29. -/
theorem test_Fx65_fault :
    let t := one 0xF265 fun s => withRegs [(0, 1), (1, 2), (2, 3)] (s.setIndex 4094)
    faulted t .dataOob 0x200 0x0FFE = true ∧ t.reg 0 = 1 ∧ t.reg 2 = 3 := by decide

/-! ### The step cycle and the host -/

/-- X1: the last fetch. -/
theorem test_last_fetch : (one 0x6001 fun s => s.setPc 4094).pc = 0x1000 := by decide

/-- X2, X3: the fetch fault, and the halted step after it. -/
theorem test_fetch_fault :
    let t := (State.reset.setPc 4095).after
    faulted t .fetchOob 0x0FFF 0x0FFF = true ∧ t.after = t := by decide

/-- X4: a key event while halted is stored. -/
theorem test_key_while_halted :
    (halted.hostSetKey 3 true).key[3] = true ∧ (halted.hostSetKey 3 true).fault = true ∧
    (halted.hostSetKey 3 true).hostReset = State.reset := by decide

/-- X5, first step: memory after reset holds the unrecognised word 0x0000. -/
theorem test_first_step :
    State.reset.after.result = some (.decodeError 0x0000 0x200) ∧ State.reset.after.pc = 0x202 := by decide

/-- H2, first load, and H3. -/
theorem test_load :
    (State.reset.loadProgram [0x12, 0x34]).2.bytes 0x200 3 = [0x12, 0x34, 0] ∧
    (State.reset.loadProgram [0x12, 0x34]).1 = .ok ∧ State.reset.loadProgram [] = (.ok, State.reset) := by decide

/-- H2, second load: one byte too many changes nothing. -/
theorem test_load_too_long (s : State) : s.loadProgram (List.replicate 3585 0) = (.capacityExceeded, s) :=
  if_pos (by rw [List.length_replicate]; decide)

/-- H4, H5. -/
theorem test_set_key :
    State.reset.hostSetKey 16 true = State.reset ∧ State.reset.hostSetKey 255 true = State.reset ∧
    (State.reset.hostSetKey 15 true).key[15] = true ∧
    (State.reset.hostSetKey 15 true).hostSetKey 15 false = State.reset := by
  decide

/-- H7: `fb_addr = 202` is pixel (3, 10). -/
theorem test_read_pixel :
    let s := withRows [0, 0, 0, 1 <<< 53] State.reset
    s.readPixel 202 = true ∧ s.readPixel 203 = false := by decide

/-- H8. -/
theorem test_reset_font :
    State.reset.byte 0x50 = 0xF0 ∧ State.reset.byte 0x9F = 0x80 ∧ State.reset.byte 0xA0 = 0 ∧
    State.reset.byte 0x4F = 0 := by
  decide

/-- The signals: a load of two bytes, then a step of what it loaded. -/
theorem test_signals :
    ((Board.run [{ ldStart := true, ldLen := 2 }, { ldValid := true, ldData := 0x12 }, {},
      { ldValid := true, ldData := 0x34 },
      { step := true }] ⟨State.reset, none⟩).map fun r => (r.1.core.pc, r.2)) =
      some (0x234, [{}, {}, {}, { ldDone := true }, { done := true }]) := by decide

/-- The signals: two requests in one cycle have no move; `rst` beside a request is `Reset`. -/
theorem test_signals_conflict :
    Board.clock { step := true, redrawClr := true } ⟨State.reset, none⟩ = none ∧
    (Board.clock { step := true, rst := true } ⟨halted, none⟩).map (fun p => p.1.core) = some State.reset := by decide

/-! ### Witnesses: for each obligation, states and operands that meet all its hypotheses together, with one for each clause
at the boundary of its range. An answer's state is named by `left`, so that the hypothesis `exec i s = .next t` is shown by
evaluation. -/

/-- The deepest state: `pc` at its bound, the stack full with its slots at their bound, a fault latched. -/
def deep : State :=
  left ({ State.reset with pc := 0x10FE, sp := 16, stack := Vector.replicate 16 4094 }.raise .fetchOob 0x10FE)

theorem deep_invariant : Invariant deep := ⟨by decide, by decide, by decide, by decide, by decide⟩

theorem reset_invariant : Invariant State.reset := ⟨by decide, by decide, by decide, by decide, by decide⟩

/-- ResetGivesEveryElementItsValue: the addresses on both sides of the font. -/
theorem test_meets_ResetGivesEveryElementItsValue :
    (0x4F < 4096 ∧ (0x4F < 0x50 ∨ 0x9F < 0x4F)) ∧ (0xA0 < 4096 ∧ (0xA0 < 0x50 ∨ 0x9F < 0xA0)) ∧
    (4095 < 4096 ∧ (4095 < 0x50 ∨ 0x9F < 4095)) := by decide

/-- StepKeepsInvariant: a step of the deepest state, of reset, and of a call that fills the stack. -/
theorem test_meets_StepKeepsInvariant :
    (Invariant deep ∧ step deep = .next deep.after) ∧
    (Invariant State.reset ∧ step State.reset = .next State.reset.after) ∧
    ∃ s, Invariant s ∧ s.nextInstr = some (.i2nnn 0xFFF) ∧ step s = .next s.after ∧ s.after.sp = 16 := by
  refine ⟨⟨deep_invariant, rfl⟩, ⟨reset_invariant, rfl⟩, ready 0x2FFF fun s => withSp 15 (s.setPc 4093), ?_, by decide,
    rfl, by decide⟩
  exact ⟨by decide, by decide, by decide, by decide, by decide⟩

/-- HostOperationKeepsInvariant: every operation on a state that meets the invariant. -/
theorem test_meets_HostOperationKeepsInvariant :
    Invariant deep ∧ ∀ op ∈ [HostOp.reset, .loadProgram [1], .setKey 15 true, .clearRedraw, .step 7],
      op.apply deep = .next (left (op.apply deep)) := by
  refine ⟨deep_invariant, fun op h => ?_⟩
  simp only [List.mem_cons, List.not_mem_nil, or_false] at h
  rcases h with rfl | rfl | rfl | rfl | rfl <;> rfl

/-- ReachableStatesMeetInvariant. -/
theorem test_meets_ReachableStatesMeetInvariant : ∃ s, Reachable s ∧ s.pc = 0x200 ∧ s.dt = 0 ∧ s.byte 0x200 = 0x12 :=
  ⟨left (runOps [.loadProgram [0x12, 0x00], .step 0] State.reset),
    ⟨Config.default, [.loadProgram [0x12, 0x00], .step 0], rfl⟩, by decide⟩

/-- StepRunsDecodedInstruction: the highest `pc` that can be fetched from, with an instruction that completes and with one
that faults. -/
theorem test_meets_StepRunsDecodedInstruction :
    ∀ p ∈ [(0x6001, Instr.i6xnn 0 1, StepResult.ok), (0x00EE, .i00EE, .fault .stackUnderflow 0x00EE)],
      let s := ready p.1 fun s => s.setPc 4094
      s.fault = false ∧ s.pc.toNat + 1 ≤ 4095 ∧
      decode (wordOf (s.byte s.pc.toNat) (s.byte (s.pc.toNat + 1))) = some p.2.1 ∧
      exec p.2.1 s = .next (left (exec p.2.1 s)) ∧ (left (exec p.2.1 s)).result = some p.2.2 := by
  intro p h
  simp only [List.mem_cons, List.not_mem_nil, or_false] at h
  rcases h with rfl | rfl <;> exact ⟨by decide, by decide, by decide, rfl, by decide⟩

/-- PlacedWordIsExecuted: on a halted core whose `pc` cannot be fetched from. -/
theorem test_meets_PlacedWordIsExecuted :
    Memory.wf halted.cfg halted.mem = true ∧ decode 0x6A3C = some (.i6xnn 0xA 0x3C) ∧ halted.fault = true ∧
    (halted.withFetchWord 16 0x6A3C).after.reg 0xA = 0x3C := by decide

/-- HaltedStepChangesNothing. -/
theorem test_meets_HaltedStepChangesNothing : halted.fault = true := by decide

/-- FetchReadsTwoBytesOrFaults: `pc` 4095 and `pc` 4094. -/
theorem test_meets_FetchReadsTwoBytesOrFaults :
    ((State.reset.setPc 4095).fault = false ∧ 4095 < (State.reset.setPc 4095).pc.toNat + 1) ∧
    (State.reset.setPc 4094).pc.toNat + 1 ≤ 4095 := by decide

/-- UnrecognisedWordAdvancesAndTicks. -/
theorem test_meets_UnrecognisedWordAdvancesAndTicks :
    State.reset.fault = false ∧ State.reset.fetch = some 0x0000 ∧ decode 0x0000 = none := by decide

/-- BlockedStepChangesNothing. -/
theorem test_meets_BlockedStepChangesNothing :
    (ready 0xF30A id).nextInstr = some (.iFx0A 3) ∧ ∀ k : Fin 16, (ready 0xF30A id).key[k] = false := by decide

/-- TimersCountCompletedSteps: a step for each clause, and an operation of the host that is neither `Reset` nor `Step`. -/
theorem test_meets_TimersCountCompletedSteps :
    (∀ op ∈ [0xF415, 0xF418, 0x1200, 0x0000, 0xF30A, 0x00EE], step (ready op id) = .next (ready op id).after) ∧
    (ready 0xF415 id).nextInstr = some (.iFx15 4) ∧ (one 0xF415).result = some .ok ∧
    (ready 0xF418 id).nextInstr = some (.iFx18 4) ∧ (one 0xF418).result = some .ok ∧
    (ready 0x1200 id).nextInstr = some (.i1nnn 0x200) ∧ (one 0x1200).result = some .ok ∧
    (one 0x0000).result = some (.decodeError 0x0000 0x200) ∧ (one 0xF30A).result = some .blocked ∧
    (one 0x00EE).result = some (.fault .stackUnderflow 0x00EE) ∧
    (HostOp.clearRedraw ≠ .reset ∧ (∀ rnd, HostOp.clearRedraw ≠ .step rnd) ∧
      HostOp.clearRedraw.apply State.reset = .next State.reset.clearRedraw) := by
  refine ⟨fun op h => ?_, by decide, by decide, by decide, by decide, by decide, by decide, by decide, by decide, by decide,
    by simp, by simp, rfl⟩
  simp only [List.mem_cons, List.not_mem_nil, or_false] at h
  rcases h with rfl | rfl | rfl | rfl | rfl | rfl <;> rfl

/-- TimerAfterStepsIsInitialLessCount: three steps of a jump to itself (T11), more than the timer holds. -/
theorem test_meets_TimerAfterStepsIsInitialLessCount :
    let s := ready 0x1200 fun s => s.setDelay 2
    (∀ k, k < 3 → (s.afterSteps (k + 1)).result = some .ok ∧ (s.afterSteps k).nextInstr = some (.i1nnn 0x200)) ∧
    (s.afterSteps 3).dt = 0 := by decide

/-- EncodeOfDecode, and the words and rows of DecoderAgreesWithOpcodeTable. -/
theorem test_meets_EncodeOfDecode :
    decode 0xFF65 = some (.iFx65 15) ∧ (Instr.iFx65 0).row ∈ rows ∧
    0xFF65 &&& (Instr.iFx65 0).row.mask = (Instr.iFx65 0).row.value := by
  decide

/-- CallPushesItsAddress: `sp` 15 and `sp` 16. -/
theorem test_meets_CallPushesItsAddress :
    (withSp 15 State.reset).sp.val < 16 ∧ (withSp 16 State.reset).sp.val = 16 := by decide

/-- ReturnPopsAddress: `sp` 1, 16 and 0. -/
theorem test_meets_ReturnPopsAddress :
    (withSp 1 State.reset).sp.val ≠ 0 ∧ (withSp 16 State.reset).sp.val ≠ 0 ∧ State.reset.sp.val = 0 := by decide

/-- ReturnUndoesCall: the call that fills the stack, and a state with its stack but other registers. -/
theorem test_meets_ReturnUndoesCall :
    let s := withSp 15 State.reset
    let t := left (exec (.i2nnn 0x300) s)
    let u := (t.setReg 0 7).setPc 0x310
    exec (.i2nnn 0x300) s = .next t ∧ t.result = some .ok ∧ u.sp = t.sp ∧
    ∀ k : Fin 16, k.val < t.sp.val → u.stack[k] = t.stack[k] := ⟨rfl, by decide, by decide, by decide⟩

/-- SkipsOnKey: Vx 15 and Vx 16. -/
theorem test_meets_SkipsOnKey :
    ((State.reset.setReg 2 15).reg 2).toNat < 16 ∧ 15 < ((State.reset.setReg 2 16).reg 2).toNat := by decide

/-- RandomByteUnderMask, FreeRandomBytesAreCounted: with and without a byte of the host, and Cxnn at the next fetch. -/
theorem test_meets_RandomByteUnderMask :
    (State.reset.setRndIn (some 0xB7)).rndIn = some 0xB7 ∧ State.reset.rndIn = none ∧
    (ready 0xC30F id).nextInstr = some (.iCxnn 3 0x0F) := by decide

/-- AddWithCarry, SubtractWithNotBorrow: a destination that is not VF. -/
theorem test_meets_AddWithCarry : (14 : Nibble) ≠ 15#4 ∧ (0 : Nibble) ≠ 15#4 := by decide

/-- ShiftsDropABit: the value shifted, with either setting of `SHIFT_USES_VY`. -/
theorem test_meets_ShiftsDropABit :
    ∀ b : Bool, ∀ x ∈ [0, 14, (15 : Nibble)],
      let s := withCfg (fun c => { c with shiftUsesVy := b }) (withRegs [(2, 0xF0)] State.reset)
      (∃ v : Byte, v = if s.cfg.shiftUsesVy = true then s.reg 2 else s.reg x) := fun _ _ _ => ⟨_, rfl⟩

/-- FlagTable: a completed instance of each instruction of the table, and of one that does not write VF. -/
theorem test_meets_FlagTable :
    ∀ i ∈ [Instr.i8xy4 1 2, .i8xy5 1 2, .i8xy7 1 2, .i8xy6 1 2, .i8xyE 1 2, .iDxyn 1 2 5, .i7xnn 1 2],
      exec i State.reset = .next (left (exec i State.reset)) ∧ (left (exec i State.reset)).result = some .ok := by
  intro i h
  simp only [List.mem_cons, List.not_mem_nil, or_false] at h
  rcases h with rfl | rfl | rfl | rfl | rfl | rfl | rfl <;> exact ⟨rfl, by decide⟩

/-- DrawSprite: no byte, a last byte at 4095, a last byte at 4096 (D11, D13, D14). -/
theorem test_meets_DrawSprite :
    (0 : Nibble).toNat = 0 ∧ (State.reset.setIndex 4091).I.toNat + (5 : Nibble).toNat - 1 ≤ 4095 ∧
    (0 < (5 : Nibble).toNat ∧ 4095 < (State.reset.setIndex 4092).I.toNat + (5 : Nibble).toNat - 1) := by decide

/-- DrawTwiceRestoresScreen: glyph 0 on a clear screen (D2, D3), the second draw from a state with another VF. -/
theorem test_meets_DrawTwiceRestoresScreen :
    let s := State.reset.setIndex 0x50
    let t := left (exec (.iDxyn 0 1 5) s)
    let u := (t.setReg 15 9).setPc 0x300
    let v := left (exec (.iDxyn 0 1 5) u)
    exec (.iDxyn 0 1 5) s = .next t ∧ t.result = some .ok ∧ u.reg 0 = s.reg 0 ∧ u.reg 1 = s.reg 1 ∧ u.I = s.I ∧
    (∀ a, u.byte a = s.byte a) ∧ (∀ r c, u.pixel r c = t.pixel r c) ∧ exec (.iDxyn 0 1 5) u = .next v ∧
    v.result = some .ok ∧ (∀ r c, s.pixel r c = false) ∧ spritePixel s 5 0 0 0 0 = true := by
  refine ⟨rfl, by decide, by decide, by decide, by decide, fun _ => rfl, fun _ _ => rfl, rfl, by decide, fun r c => ?_,
    by decide⟩
  simp [State.pixel, State.setIndex, State.reset, State.resetWith]

/-- WaitForKey: key 15 alone, and no key. -/
theorem test_meets_WaitForKey :
    (∃ k : Fin 16, (State.reset.setKeyState 15 true).key[k] = true) ∧ State.reset.cfg.keySelect = .lowest ∧
    ∀ k : Fin 16, State.reset.key[k] = false := by decide

/-- TimerInstructions: each of the three placed at the next fetch. -/
theorem test_meets_TimerInstructions :
    (ready 0xF407 id).nextInstr = some (.iFx07 4) ∧ (ready 0xF415 id).nextInstr = some (.iFx15 4) ∧
    (ready 0xF418 id).nextInstr = some (.iFx18 4) := by decide

/-- StoreDecimalDigits: I 4093 and I 4094, memory canonical. -/
theorem test_meets_StoreDecimalDigits :
    Memory.wf State.reset.cfg State.reset.mem = true ∧ (State.reset.setIndex 4093).I.toNat + 2 ≤ 4095 ∧
    4095 < (State.reset.setIndex 4094).I.toNat + 2 := by decide

/-- StoreRegisters, LoadRegisters: x = 15 with I 4080 and I 4081, x = 0 with I 4095 and I 0xFFFF. -/
theorem test_meets_StoreRegisters :
    (State.reset.setIndex 4080).I.toNat + (15 : Nibble).toNat ≤ 4095 ∧
    4095 < (State.reset.setIndex 4081).I.toNat + (15 : Nibble).toNat ∧
    (State.reset.setIndex 4095).I.toNat + (0 : Nibble).toNat ≤ 4095 ∧
    4095 < (State.reset.setIndex 0xFFFF).I.toNat + (0 : Nibble).toNat := by decide

/-- CheckedMemoryAccess: addresses 4096, 4095 and 4094. -/
theorem test_meets_CheckedMemoryAccess : 4095 < 4096 ∧ 4095 ≤ 4095 ∧ 4095 < 4095 + 1 ∧ 4094 + 1 ≤ 4095 := by decide

/-- CanonicalMemoriesAreEqual: the same bytes written in two orders. -/
theorem test_meets_CanonicalMemoriesAreEqual :
    let m := ((State.reset.setByte 0x300 1).setByte 0x301 2).mem
    let k := ((State.reset.setByte 0x301 2).setByte 0x300 1).mem
    Memory.wf Config.default m = true ∧ Memory.wf Config.default k = true ∧
    ∀ a, a < 4096 → Memory.read Config.default m a = Memory.read Config.default k a :=
  ⟨by decide, by decide, fun _ _ => rfl⟩

/-- StoredBytesAreFetched: the last pair of bytes of a block of 16 that ends at 4095. -/
theorem test_meets_StoredBytesAreFetched :
    ∃ s t u : State, Memory.wf s.cfg s.mem = true ∧ exec (.iFx55 15) s = .next t ∧ t.result = some .ok ∧
      (14 : Nibble).toNat + 1 ≤ (15 : Nibble).toNat ∧ (∀ a, u.byte a = t.byte a) ∧
      u.pc.toNat = s.I.toNat + (14 : Nibble).toNat :=
  have h : exec (.iFx55 15) (State.reset.setIndex 4080) = ((State.reset.setIndex 4080).setBytes _ _).advance :=
    execFx55_ok (State.reset.setIndex 4080) 15 (by decide)
  ⟨State.reset.setIndex 4080, _, State.setPc _ 4094, by decide, h.trans (State.advance_eq _),
    State.setResult_result .., by decide, fun _ => State.setPc_byte .., by simp⟩

/-- FaultsArePrecise and FaultTable: a fault of each cause, by an instruction and by the fetch. -/
theorem test_meets_FaultsArePrecise :
    (∀ p ∈ [(Instr.i00EE, State.reset, Cause.stackUnderflow, 0x00EE#16),
        (.i2nnn 0x300, withSp 16 State.reset, .stackOverflow, 0x2300#16),
        (.iDxyn 0 1 5, State.reset.setIndex 4092, .dataOob, 4092#16), (.iFx33 0, State.reset.setIndex 4094, .dataOob, 4094#16),
        (.iFx55 1, State.reset.setIndex 4095, .dataOob, 4095#16), (.iFx65 1, State.reset.setIndex 4095, .dataOob, 4095#16),
        (.iEx9E 2, State.reset.setReg 2 16, .keyOob, 16#16), (.iExA1 2, State.reset.setReg 2 255, .keyOob, 255#16)],
      (left (exec p.1 p.2.1)).result = some (.fault p.2.2.1 p.2.2.2) ∧ faultOf p.2.1 p.1 = some p.2.2) ∧
    exec .i00EE State.reset = .next (left (exec .i00EE State.reset)) ∧
    (State.reset.setPc 4095).fault = false ∧ step (State.reset.setPc 4095) = .next (State.reset.setPc 4095).after ∧
    (State.reset.setPc 4095).after.result = some (.fault .fetchOob 4095) := ⟨by decide, rfl, by decide, rfl, by decide⟩

/-- FaultTable: a state that meets the invariant, without a fault. -/
theorem test_meets_FaultTable : Invariant State.reset ∧ State.reset.fault = false := ⟨reset_invariant, by decide⟩

/-- OnlyListedWritersChangeAPlace: a place 7xnn may not write. -/
theorem test_meets_OnlyListedWritersChangeAPlace :
    exec (.i7xnn 1 2) State.reset = .next (left (exec (.i7xnn 1 2) State.reset)) ∧ ¬ mayWrite (.i7xnn 1 2) (.reg 15#4) :=
  ⟨rfl, by simp [mayWrite, writesReg]⟩

/-- OnlyCxnnReadsRandomByte: an instruction that is not Cxnn, and states in which none is next (another instruction, an
unrecognised word, a halted core). -/
theorem test_meets_OnlyCxnnReadsRandomByte :
    (∀ x nn, Instr.i6xnn 1 2 ≠ .iCxnn x nn) ∧
    ∀ s ∈ [ready 0x6102 id, State.reset, halted], ∀ x nn, s.nextInstr ≠ some (.iCxnn x nn) := by
  have h1 : (ready 0x6102 id).nextInstr = some (.i6xnn 1 2) := by decide
  have h2 : State.reset.nextInstr = none := by decide
  have h3 : halted.nextInstr = none := by decide
  simp [h1, h2, h3]

/-- SetKeyWritesOneKey: index 15 and index 16. -/
theorem test_meets_SetKeyWritesOneKey : (15 : Byte).toNat < 16 ∧ 16 ≤ (16 : Byte).toNat := by decide

/-- ClearRedrawAndFramebufferRead: the last pixel. -/
theorem test_meets_ClearRedrawAndFramebufferRead :
    (31 : Fin 32).val = (2047 : BitVec 11).toNat / 64 ∧ (63 : Fin 64).val = (2047 : BitVec 11).toNat % 64 := by decide

/-- LoadProgramIsAtomic: 3584 and 3585 bytes, memory canonical. -/
theorem test_meets_LoadProgramIsAtomic :
    Memory.wf State.reset.cfg State.reset.mem = true ∧
    (∃ bytes : List Byte, bytes.length = 3584 ∧ bytes.length ≤ 4096 - 0x200) ∧
    ∃ bytes : List Byte, bytes.length = 3585 ∧ 4096 - 0x200 < bytes.length := by
  have long : ∀ n, ∃ bytes : List Byte, bytes.length = n := fun n => ⟨List.replicate n 0, List.length_replicate⟩
  obtain ⟨l, hl⟩ := long 3584
  obtain ⟨k, hk⟩ := long 3585
  exact ⟨by decide, ⟨l, hl, by omega⟩, ⟨k, hk, by omega⟩⟩

/-- OnlyResetEndsTheHalt: a halted core and each operation but `Reset`. -/
theorem test_meets_OnlyResetEndsTheHalt :
    halted.fault = true ∧ ∀ op ∈ [HostOp.loadProgram [1], .setKey 15 true, .clearRedraw, .step 7],
      op ≠ .reset ∧ op.apply halted = .next (left (op.apply halted)) := by
  refine ⟨by decide, fun op h => ?_⟩
  simp only [List.mem_cons, List.not_mem_nil, or_false] at h
  rcases h with rfl | rfl | rfl | rfl <;> exact ⟨by simp, rfl⟩

/-- SignalLoadIsLoadProgram: lengths 1, 3584 and 3585, and `rst` with a byte of a load in progress. -/
theorem test_meets_SignalLoadIsLoadProgram :
    (∃ (v : Byte) (bytes : List Byte), bytes = [] ∧ (v :: bytes).length ≤ 3584) ∧
    (∃ (v : Byte) (bytes : List Byte), (v :: bytes).length = 3584 ∧ (v :: bytes).length ≤ 3584) ∧
    3584 < (3585 : Word).toNat ∧ ({ rst := true, ldValid := true } : Pins).rst = true := by
  have long : ∀ n, ∃ bytes : List Byte, bytes.length = n := fun n => ⟨List.replicate n 0, List.length_replicate⟩
  obtain ⟨l, hl⟩ := long 3583
  exact ⟨⟨0x12, [], rfl, by decide⟩, ⟨0x12, l, by simp [hl], by simp [hl]⟩, by decide, by decide⟩

/-- SignalRequestsAreOperations: each operation, on a halted core. -/
theorem test_meets_SignalRequestsAreOperations :
    ∀ op ∈ [HostOp.step 7, .setKey 15 true, .clearRedraw], op.apply halted = .next (left (op.apply halted)) := by
  intro op h
  simp only [List.mem_cons, List.not_mem_nil, or_false] at h
  rcases h with rfl | rfl | rfl <;> rfl

end Sys2Proof.Tests
end

section
/-! The state after reset (spec/10_state.md R41): what each byte of memory and each cell reads as. -/

namespace Sys2Proof.Machine

/-- After `Reset` no cell is listed, so every address reads as its reset contents. -/
theorem State.hostReset_byte (s : State) (a : Nat) : s.hostReset.byte a = Memory.unlisted s.cfg a := rfl

theorem Memory.unlisted_font (cfg : Config) (k : Fin 80) :
    Memory.unlisted cfg (0x50 + k.val) = (cfg.font[k.val / 5])[k.val % 5] := by
  have inFont : 0x50 ≤ 0x50 + k.val ∧ 0x50 + k.val < 0xA0 := by omega
  simp only [Memory.unlisted, dif_pos inFont, fontByte, Nat.add_sub_cancel_left]

theorem Memory.unlisted_outside_font (cfg : Config) {a : Nat} (h : a < 0x50 ∨ 0x9F < a) :
    Memory.unlisted cfg a = 0 := by
  have notInFont : ¬ (0x50 ≤ a ∧ a < 0xA0) := by omega
  rw [Memory.unlisted, dif_neg notInFont]

@[simp] theorem State.hostReset_reg (s : State) (x : Nibble) : s.hostReset.reg x = 0 := by
  simp [State.reg]

@[simp] theorem State.hostReset_pixel (s : State) (r : Fin 32) (c : Fin 64) : s.hostReset.pixel r c = false := by
  simp [State.pixel]

/-- Settles O1: memory by the two ranges of the reset contents, every other element by its own reset lemma. -/
theorem resetGivesEveryElementItsValue : Obligations.ResetGivesEveryElementItsValue := by
  intro s
  refine ⟨fun k => ?font, fun a _ ha => ?zero, s.hostReset_reg, rfl, rfl, fun k => ?slot, rfl, s.hostReset_pixel,
    fun k => ?key, rfl, rfl, rfl, rfl, rfl, rfl, rfl⟩
  case font => rw [State.hostReset_byte, Memory.unlisted_font]
  case zero => rw [State.hostReset_byte, Memory.unlisted_outside_font _ ha]
  case slot => simp
  case key => simp

end Sys2Proof.Machine
end

section
/-! Registers an instruction leaves alone, and the flag register (spec/10_state.md R23, R24). -/

namespace Sys2Proof.Machine

/-! ### The registers outside the column "writes" of R23 -/

/-- The next state of the answer, if the answer is one, holds in register `r` what `s` holds there. -/
def KeepsReg (s : State) (r : Nibble) (a : Answer) : Prop := ∀ t, a = .next t → t.reg r = s.reg r

theorem KeepsReg.raise (s : State) (r : Nibble) (c : Cause) (info : Word) : KeepsReg s r (s.raise c info) := by
  rintro _ ⟨⟩
  rfl

theorem KeepsReg.block (s : State) (r : Nibble) : KeepsReg s r s.block := by
  rintro _ ⟨⟩
  rfl

/-- Completing writes no register: it keeps what the state before it has kept. -/
theorem KeepsReg.jump {s u : State} {r : Nibble} (a : Word) (h : u.reg r = s.reg r) : KeepsReg s r (u.jump a) := by
  rintro _ ⟨⟩
  exact h

theorem KeepsReg.skipIf (s : State) (r : Nibble) (c : Bool) : KeepsReg s r (s.skipIf c) := by
  rw [State.skipIf_jump]
  exact .jump _ rfl

theorem KeepsReg.setReg (s : State) {r x : Nibble} (v : Byte) (h : r ≠ x) : KeepsReg s r (s.setReg x v).advance :=
  .jump _ (s.reg_setReg_ne v h)

theorem KeepsReg.setResultAndFlag (s : State) {r x : Nibble} (v : Byte) (f : Bool) (h : ¬ (r = x ∨ r = regF)) :
    KeepsReg s r (s.setResultAndFlag x v f).advance := by
  obtain ⟨hx, hf⟩ := not_or.1 h
  exact .jump _ (by rw [State.reg_setResultAndFlag, if_neg hf, if_neg hx])

theorem State.reg_drawn (s : State) (x y n r : Nibble) :
    (s.drawn x y n).reg r =
      if r = regF then
        flagByte (collides s.fb (s.bytes s.I.toNat n.toNat) (s.startColumn x) (s.startRow y))
      else s.reg r := by
  simp [State.drawn, State.setFlag, State.reg_setReg]

/-- A row of the fault table that gives no fault has a false condition. -/
theorem faultCondition_false {p : Prop} [Decidable p] {f : Cause × Word}
    (h : (if p then some f else none) = none) : ¬ p := by
  intro hp
  rw [if_pos hp] at h
  cases h

/-- An instruction leaves a register that the column "writes" of R23 does not give it, however it ends: a fault entry
and a block write no register, and a completion only those of its own meaning. -/
theorem exec_keepsReg (i : Instr) (s : State) (r : Nibble) (hr : ¬ writesReg i r) : KeepsReg s r (exec i s) := by
  rcases exec_shape i s with ⟨c, info, -, he⟩ | ⟨-, -, -, he⟩ | ⟨hf, hb, -⟩
  · rw [he]; exact .raise _ _ _ _
  · rw [he]; exact .block _ _
  cases i with
  | i00E0 | i1nnn | iAnnn | iBnnn | iFx15 | iFx18 | iFx1E | iFx29 => exact .jump _ rfl
  | i3xnn | i4xnn | i5xy0 | i9xy0 => exact .skipIf _ _ _
  | i6xnn | i7xnn | i8xy0 | i8xy1 | i8xy2 | i8xy3 | iFx07 => exact .setReg s _ hr
  | i8xy4 | i8xy5 | i8xy6 | i8xy7 | i8xyE => exact .setResultAndFlag s _ _ hr
  | iCxnn x nn => exact .jump _ (s.reg_setReg_ne _ hr)
  | i00EE =>
    have hsp : s.sp.val ≠ 0 := faultCondition_false hf
    rw [exec, exec00EE_pop s (s.pop_some hsp)]
    exact .jump _ rfl
  | i2nnn nnn =>
    have hsp : s.sp.val ≠ 16 := faultCondition_false hf
    rw [exec, exec2nnn_push s nnn (s.push_some s.pc (by omega))]
    exact .jump _ rfl
  | iDxyn x y n =>
    rw [exec, execDxyn_ok s x y n (by have hI := faultCondition_false hf; omega)]
    exact .jump _ ((s.reg_drawn ..).trans (if_neg hr))
  | iEx9E x =>
    rw [exec, execEx9E_key s x (by have hI := faultCondition_false hf; omega)]
    exact .skipIf _ _ _
  | iExA1 x =>
    rw [exec, execExA1_key s x (by have hI := faultCondition_false hf; omega)]
    exact .skipIf _ _ _
  | iFx0A x =>
    rw [exec, execFx0A_key s x fun h => hb ⟨⟨x, rfl⟩, h⟩]
    exact .setReg s _ hr
  | iFx33 x =>
    rw [exec, execFx33_ok s x (by have hI := faultCondition_false hf; omega)]
    exact .jump _ (s.setBytes_reg ..)
  | iFx55 x =>
    rw [exec, execFx55_ok s x (by have hI := faultCondition_false hf; omega)]
    exact .jump _ (s.setBytes_reg ..)
  | iFx65 x =>
    have above : (s.bytes s.I.toNat (x.toNat + 1))[r.toNat]? = none :=
      List.getElem?_eq_none (by rw [State.bytes_length]; exact Nat.not_le.1 hr)
    rw [exec, execFx65_ok s x (by have hI := faultCondition_false hf; omega)]
    exact .jump _ (by rw [State.reg_setRegs, above]; rfl)

/-! ### Flag values -/

theorem flagByte_decide (p : Prop) [Decidable p] : flagByte (decide p) = if p then 1 else 0 := by simp [flagByte]

theorem flagByte_eq_zero_or_one (f : Bool) : flagByte f = 0 ∨ flagByte f = 1 := by cases f <;> simp [flagByte]

theorem flagByte_eq_one_iff (f : Bool) : flagByte f = 1 ↔ f = true := by cases f <;> simp [flagByte]

/-- The flag is written last, so VF holds it for every x, x = F included (R25). -/
theorem flag_of_setResultAndFlag {s t : State} {x : Nibble} {v : Byte} {f : Bool}
    (h : (s.setResultAndFlag x v f).advance = .next t) : t.reg regF = flagByte f := by
  cases h
  exact (s.reg_setResultAndFlag x regF v f).trans (if_pos rfl)

/-! ### The flag of a completed draw -/

/-- An instruction that completes has raised no fault. -/
theorem faultOf_eq_none_of_ok {i : Instr} {s t : State} (h : exec i s = .next t) (hok : t.result = some .ok) :
    faultOf s i = none := by
  cases hf : faultOf s i with
  | none => rfl
  | some f =>
    rw [exec_eq_raise s hf] at h
    cases h
    cases hok

/-- What a draw that completes has done. -/
theorem exec_iDxyn_of_ok {s t : State} {x y n : Nibble} (h : exec (.iDxyn x y n) s = .next t)
    (hok : t.result = some .ok) : (s.drawn x y n).advance = .next t := by
  have hf := faultOf_eq_none_of_ok h hok
  rw [← h, exec, execDxyn_ok s x y n (by have hI := faultCondition_false hf; omega)]

/-- A pixel goes from 1 to 0 in a draw exactly where a 1 pixel of the sprite meets it (45_display.md R191, R192). -/
theorem State.drawn_erases_iff (s : State) (x y n : Nibble) (r : Fin 32) (c : Fin 64) :
    (s.pixel r c = true ∧ (s.drawn x y n).pixel r c = false) ↔
      s.pixel r c = true ∧
        (spriteRow (s.bytes s.I.toNat n.toNat) (s.startColumn x) (s.startRow y) r.val).getMsbD c.val = true := by
  rw [State.drawn, State.setFlag, State.setReg_pixel, State.pixel_drawSprite]
  refine and_congr_right fun hp => ?_
  simp [hp]

/-- VF after a completed draw: 0 or 1, and 1 exactly when some pixel went from 1 to 0 (R24; 45_display.md R192). -/
theorem flag_of_drawn {s t : State} {x y n : Nibble} (h : (s.drawn x y n).advance = .next t) :
    (t.reg regF = 0 ∨ t.reg regF = 1) ∧ (t.reg regF = 1 ↔ ∃ r c, s.pixel r c = true ∧ t.pixel r c = false) := by
  cases h
  simp only [State.setResult_reg, State.setPc_reg, State.setResult_pixel, State.setPc_pixel, State.reg_drawn,
    if_true, State.drawn_erases_iff]
  exact ⟨flagByte_eq_zero_or_one _, (flagByte_eq_one_iff _).trans (collides_iff ..)⟩

/-- Settles O36: the five 8xy rows by the flag written last, Dxyn by its collision, all others by the registers they
leave alone. -/
theorem flagTable : Obligations.FlagTable := by
  refine ⟨fun s => s.hostReset_reg _, fun s t hok => ⟨fun x y h => ?add, fun x y h => ?sub, fun x y h => ?subn,
    fun x y h => ?shr, fun x y h => ?shl, fun x y n h => ?draw, fun i h hw => ?other⟩⟩
  case add => exact (flag_of_setResultAndFlag h).trans (flagByte_decide _)
  case sub => exact (flag_of_setResultAndFlag h).trans (flagByte_decide _)
  case subn => exact (flag_of_setResultAndFlag h).trans (flagByte_decide _)
  case shr => exact flag_of_setResultAndFlag h
  case shl => exact flag_of_setResultAndFlag h
  case draw => exact flag_of_drawn (exec_iDxyn_of_ok h hok)
  case other => exact exec_keepsReg i s _ hw t h

end Sys2Proof.Machine
end

section
/-! The checked accesses to memory, and what a write leaves unchanged (spec/20_memory.md R64 to R66). -/

namespace Sys2Proof.Machine

theorem State.bytes_one (s : State) (a : Nat) : s.bytes a 1 = [s.byte a] := rfl

theorem State.bytes_two (s : State) (a : Nat) : s.bytes a 2 = [s.byte a, s.byte (a + 1)] := rfl

theorem Keeps.mono {s t : State} {P Q : Part → Prop} (h : Keeps s t P) (hPQ : ∀ p, P p → Q p) : Keeps s t Q :=
  fun p hp => h p fun hP => hp (hPQ p hP)

/-- A block write changes the bytes of its block and no other place, in every state (R65). -/
theorem Keeps.setBytes (s : State) (a : Nat) (bs : List Byte) :
    Keeps s (s.setBytes a bs) fun p => ∃ k, k < bs.length ∧ p = .byte (a + k) := by
  intro p hp
  cases p with
  | byte b =>
    have outside : b < a ∨ a + bs.length ≤ b := by
      by_contra inside
      exact hp ⟨b - a, by omega, congrArg Part.byte (by omega)⟩
    exact s.byte_setBytes_outside a bs outside
  | _ => rw [State.setBytes_eq]; rfl

/-- The write of one byte changes that byte and no other place, in every state (R65). -/
theorem Keeps.setBytes_singleton (s : State) (a : Nat) (v : Byte) :
    Keeps s (s.setBytes a [v]) fun p => p = .byte a := by
  refine (Keeps.setBytes s a [v]).mono ?_
  rintro p ⟨k, hk, rfl⟩
  obtain rfl : k = 0 := Nat.lt_one_iff.1 hk
  rfl

/-- Settles O46: each access inside or outside the bounds by the lemma of its ending, the write by its frame. -/
theorem checkedMemoryAccess : Obligations.CheckedMemoryAccess := by
  intro s addr
  refine ⟨fun high => ⟨?readOut, fun v => ?writeOut⟩, fun low => ?readIn, fun high => ?read2Out, fun low => ?read2In,
    fun low v => ?writeIn⟩
  case readOut => exact s.memRead_none (by omega) (by omega)
  case writeOut => exact s.memWrite_none (by simp) (by simp; omega)
  case readIn => rw [s.memRead_some (.inr (by omega)), State.bytes_one]
  case read2Out => exact s.memRead_none (by omega) (by omega)
  case read2In => rw [s.memRead_some (.inr (by omega)), State.bytes_two]
  case writeIn =>
    have inside : addr + [v].length ≤ 4096 := by simp; omega
    exact ⟨_, s.memWrite_some inside, fun hm => s.byte_setByte_self hm addr v, .setBytes_singleton s addr v⟩

end Sys2Proof.Machine
end

section
/-! The decoder, the encoder and the opcode table (spec/30_encoding.md R92, R94, R96): the fields of a word as numbers, a
word put together from its fields, and what the AND with a row's mask says about them. -/

namespace Sys2Proof

/-! ### Fields as numbers -/

theorem field_toNat (op : Word) (k len : Nat) : (op.extractLsb' k len).toNat = op.toNat / 2 ^ k % 2 ^ len := by
  rw [BitVec.extractLsb'_toNat, Nat.shiftRight_eq_div_pow]

theorem opX_toNat (op : Word) : (opX op).toNat = op.toNat / 2 ^ 8 % 2 ^ 4 := field_toNat op 8 4

theorem opY_toNat (op : Word) : (opY op).toNat = op.toNat / 2 ^ 4 % 2 ^ 4 := field_toNat op 4 4

theorem opN_toNat (op : Word) : (opN op).toNat = op.toNat % 2 ^ 4 := BitVec.extractLsb'_toNat ..

theorem opNN_toNat (op : Word) : (opNN op).toNat = op.toNat % 2 ^ 8 := BitVec.extractLsb'_toNat ..

theorem opNNN_toNat (op : Word) : (opNNN op).toNat = op.toNat % 2 ^ 12 := BitVec.extractLsb'_toNat ..

/-- Settles O18: each field as a number; the overlaps are then arithmetic. -/
theorem fieldsOfAWord : Obligations.FieldsOfAWord := by
  intro op
  refine ⟨opX_toNat op, opY_toNat op, opN_toNat op, opNN_toNat op, opNNN_toNat op, ?nn, ?nnn⟩
  case nn => rw [opNN_toNat, opY_toNat, opN_toNat]; omega
  case nnn => rw [opNNN_toNat, opX_toNat, opNN_toNat]; omega

/-! ### A word from its fields -/

theorem wordXYN_of_fields {op : Word} {a n : Nibble} (ha : (opTop op).toNat = a.toNat) (hn : (opN op).toNat = n.toNat) :
    wordXYN a (opX op) (opY op) n = op := by
  rw [← BitVec.eq_of_toNat_eq ha, ← BitVec.eq_of_toNat_eq hn]
  exact (word_eq_nibbles op).symm

theorem wordXNN_of_fields {op : Word} {a : Nibble} {nn : Byte} (ha : (opTop op).toNat = a.toNat)
    (hnn : (opNN op).toNat = nn.toNat) : wordXNN a (opX op) nn = op := by
  obtain rfl := BitVec.eq_of_toNat_eq ha
  obtain rfl := BitVec.eq_of_toNat_eq hnn
  have high : opTop op ++ opX op = op.extractLsb' 8 8 := BitVec.extractLsb'_append_extractLsb'_eq_extractLsb' rfl
  rw [wordXNN, high]
  exact wordOf_bytes op

theorem wordNNN_of_fields {op : Word} {a : Nibble} (ha : (opTop op).toNat = a.toNat) : wordNNN a (opNNN op) = op := by
  obtain rfl := BitVec.eq_of_toNat_eq ha
  exact (BitVec.extractLsb'_append_extractLsb'_eq_extractLsb' rfl).trans BitVec.extractLsb'_eq_self

/-! ### The word of a decoded instruction -/

theorem encode_of_decode0 {op : Word} {i : Instr} (h : decode0 op = some i) : encode i = op := by
  unfold decode0 at h
  split at h
  case isTrue hop => cases h; exact hop.symm
  case isFalse =>
    split at h
    case isTrue hop => cases h; exact hop.symm
    case isFalse => cases h

theorem encode_of_decode8 {op : Word} {i : Instr} (htop : (opTop op).toNat = 0x8) (h : decode8 op = some i) :
    encode i = op := by
  unfold decode8 at h
  split at h <;> cases h <;> exact wordXYN_of_fields htop ‹_›

theorem encode_of_decodeE {op : Word} {i : Instr} (htop : (opTop op).toNat = 0xE) (h : decodeE op = some i) :
    encode i = op := by
  unfold decodeE at h
  split at h <;> cases h <;> exact wordXNN_of_fields htop ‹_›

theorem encode_of_decodeF {op : Word} {i : Instr} (htop : (opTop op).toNat = 0xF) (h : decodeF op = some i) :
    encode i = op := by
  unfold decodeF at h
  split at h <;> cases h <;> exact wordXNN_of_fields htop ‹_›

/-- The families 5 and 9 have one instruction, of low nibble 0. -/
theorem encode_of_decode_lowZero {op : Word} {i j : Instr} (hj : opN op = 0 → encode j = op)
    (h : (if opN op = 0 then some j else none) = some i) : encode i = op := by
  split at h
  case isTrue hn => cases h; exact hj hn
  case isFalse => cases h

/-- A word that decodes is the word of its instruction, by the branches of R94: `h_k` is the top nibble k - 1. -/
theorem encode_of_decode {op : Word} {i : Instr} (h : decode op = some i) : encode i = op := by
  unfold decode at h
  split at h
  case h_1 => exact encode_of_decode0 h
  case h_9 htop => exact encode_of_decode8 htop h
  case h_15 htop => exact encode_of_decodeE htop h
  case h_16 =>
    have htop : (opTop op).toNat = 0xF := by have := (opTop op).isLt; grind
    exact encode_of_decodeF htop h
  case h_6 htop | h_10 htop =>
    exact encode_of_decode_lowZero (fun hn => wordXYN_of_fields htop (congrArg _ hn)) h
  case h_2 htop | h_3 htop | h_11 htop | h_12 htop => cases h; exact wordNNN_of_fields htop
  case h_4 htop | h_5 htop | h_7 htop | h_8 htop | h_13 htop => cases h; exact wordXNN_of_fields htop rfl
  case h_14 htop => cases h; exact wordXYN_of_fields htop rfl

/-! ### What the AND with a mask says about the fields (R96) -/

theorem field_of_and {op m v : Word} (h : op &&& m = v) (k len : Nat) (hm : m.extractLsb' k len = BitVec.allOnes len) :
    op.extractLsb' k len = v.extractLsb' k len := by
  rw [← h, BitVec.extractLsb'_and, hm, BitVec.and_allOnes]

theorem decode_eq_decode8 {op : Word} (htop : opTop op = 0x8) : decode op = decode8 op := by rw [decode, htop]; rfl

theorem decode_eq_decodeE {op : Word} (htop : opTop op = 0xE) : decode op = decodeE op := by rw [decode, htop]; rfl

theorem decode_eq_decodeF {op : Word} (htop : opTop op = 0xF) : decode op = decodeF op := by rw [decode, htop]; rfl

/-- The words of the row of `j` decode to an instruction of that row. The mask fixes the top nibble, and the low nibble,
the low byte or the whole word where the decoder looks at it. -/
theorem decode_of_row {op : Word} (j : Instr) (h : op &&& j.row.mask = j.row.value) :
    ∃ i, decode op = some i ∧ i.row = j.row := by
  cases j <;> dsimp only [Instr.row] at h
  case i00E0 | i00EE =>
    obtain rfl : op = _ := BitVec.and_allOnes.symm.trans h
    exact ⟨_, by decide, rfl⟩
  case i1nnn | i2nnn | i3xnn | i4xnn | i6xnn | i7xnn | iAnnn | iBnnn | iCxnn | iDxyn =>
    have htop : opTop op = _ := field_of_and h 12 4 rfl
    rw [decode, htop]
    exact ⟨_, rfl, rfl⟩
  case i5xy0 | i9xy0 =>
    have htop : opTop op = _ := field_of_and h 12 4 rfl
    have hn : opN op = _ := field_of_and h 0 4 rfl
    rw [decode, htop]
    exact ⟨_, if_pos hn, rfl⟩
  case i8xy0 | i8xy1 | i8xy2 | i8xy3 | i8xy4 | i8xy5 | i8xy6 | i8xy7 | i8xyE =>
    have htop : opTop op = _ := field_of_and h 12 4 rfl
    have hn : opN op = _ := field_of_and h 0 4 rfl
    rw [decode_eq_decode8 htop, decode8, hn]
    exact ⟨_, rfl, rfl⟩
  case iEx9E | iExA1 =>
    have htop : opTop op = _ := field_of_and h 12 4 rfl
    have hnn : opNN op = _ := field_of_and h 0 8 rfl
    rw [decode_eq_decodeE htop, decodeE, hnn]
    exact ⟨_, rfl, rfl⟩
  case iFx07 | iFx0A | iFx15 | iFx18 | iFx1E | iFx29 | iFx33 | iFx55 | iFx65 =>
    have htop : opTop op = _ := field_of_and h 12 4 rfl
    have hnn : opNN op = _ := field_of_and h 0 8 rfl
    rw [decode_eq_decodeF htop, decodeF, hnn]
    exact ⟨_, rfl, rfl⟩

/-! ### The table -/

theorem exists_instr_of_mem_rows : ∀ r ∈ rows, ∃ j : Instr, j.row = r := by
  simp only [rows, List.forall_mem_cons, exists_apply_eq_apply, List.not_mem_nil, false_implies, implies_true, and_self]

/-- Every instruction's word matches its row, which is in the table. -/
theorem encode_matches_row (i : Instr) : Laws.TableRow.Statement i := by
  cases i with
  | i00E0 => exact Laws.TableRow.i00E0
  | i00EE => exact Laws.TableRow.i00EE
  | i1nnn => exact Laws.TableRow.i1nnn _
  | i2nnn => exact Laws.TableRow.i2nnn _
  | i3xnn => exact Laws.TableRow.i3xnn _ _
  | i4xnn => exact Laws.TableRow.i4xnn _ _
  | i5xy0 => exact Laws.TableRow.i5xy0 _ _
  | i6xnn => exact Laws.TableRow.i6xnn _ _
  | i7xnn => exact Laws.TableRow.i7xnn _ _
  | i8xy0 => exact Laws.TableRow.i8xy0 _ _
  | i8xy1 => exact Laws.TableRow.i8xy1 _ _
  | i8xy2 => exact Laws.TableRow.i8xy2 _ _
  | i8xy3 => exact Laws.TableRow.i8xy3 _ _
  | i8xy4 => exact Laws.TableRow.i8xy4 _ _
  | i8xy5 => exact Laws.TableRow.i8xy5 _ _
  | i8xy6 => exact Laws.TableRow.i8xy6 _ _
  | i8xy7 => exact Laws.TableRow.i8xy7 _ _
  | i8xyE => exact Laws.TableRow.i8xyE _ _
  | i9xy0 => exact Laws.TableRow.i9xy0 _ _
  | iAnnn => exact Laws.TableRow.iAnnn _
  | iBnnn => exact Laws.TableRow.iBnnn _
  | iCxnn => exact Laws.TableRow.iCxnn _ _
  | iDxyn => exact Laws.TableRow.iDxyn _ _ _
  | iEx9E => exact Laws.TableRow.iEx9E _
  | iExA1 => exact Laws.TableRow.iExA1 _
  | iFx07 => exact Laws.TableRow.iFx07 _
  | iFx0A => exact Laws.TableRow.iFx0A _
  | iFx15 => exact Laws.TableRow.iFx15 _
  | iFx18 => exact Laws.TableRow.iFx18 _
  | iFx1E => exact Laws.TableRow.iFx1E _
  | iFx29 => exact Laws.TableRow.iFx29 _
  | iFx33 => exact Laws.TableRow.iFx33 _
  | iFx55 => exact Laws.TableRow.iFx55 _
  | iFx65 => exact Laws.TableRow.iFx65 _

/-- Settles O19: a word of a row decodes by the fields its mask fixes; the word of a decoded instruction is its encoding,
which matches its own row. -/
theorem decoderAgreesWithOpcodeTable : Obligations.DecoderAgreesWithOpcodeTable := by
  refine ⟨rfl, fun op r hr => ⟨fun h => ?decodes, ?matched⟩, fun op i h => (encode_matches_row i).2⟩
  case decodes =>
    obtain ⟨j, rfl⟩ := exists_instr_of_mem_rows r hr
    exact decode_of_row j h
  case matched =>
    rintro ⟨i, hi, rfl⟩
    rw [← encode_of_decode hi]
    exact (encode_matches_row i).1

end Sys2Proof
end

section
/-! The branches of the step cycle in which no instruction completes (spec/40_step_cycle.md R122 to R127), with their
frames composed from one rule for each update of the state. -/

namespace Sys2Proof.Machine

/-! ### Frames -/

theorem Same.trans {p : Part} {s t u : State} (hst : Same p s t) (htu : Same p t u) : Same p s u := by
  cases p <;> exact Eq.trans htu hst

/-- Two updates in a row touch what either touches. -/
theorem Keeps.trans {s t u : State} {P Q : Part → Prop} (hst : Keeps s t P) (htu : Keeps t u Q) :
    Keeps s u fun p => P p ∨ Q p :=
  fun p hp => (hst p fun h => hp (.inl h)).trans (htu p fun h => hp (.inr h))

theorem Keeps.setResult (s : State) (r : StepResult) : Keeps s (s.setResult r) (· = .result) := by
  intro p hp
  cases p with
  | result => exact absurd rfl hp
  | _ => rfl

theorem Keeps.setRndIn (s : State) (r : Option Byte) : Keeps s (s.setRndIn r) (· = .rndIn) := by
  intro p hp
  cases p with
  | rndIn => exact absurd rfl hp
  | _ => rfl

theorem Keeps.setPc (s : State) (a : Word) : Keeps s (s.setPc a) (· = .pc) := by
  intro p hp
  cases p with
  | pc => exact absurd rfl hp
  | _ => rfl

theorem Keeps.tick (s : State) : Keeps s s.tick fun p => p = .dt ∨ p = .st := by
  intro p hp
  cases p with
  | dt => exact absurd (.inl rfl) hp
  | st => exact absurd (.inr rfl) hp
  | _ => rfl

/-! ### The word fetched -/

/-- The byte at the lower address is the high one (20_memory.md R62). -/
theorem wordOf_toNat (hi lo : Byte) : (wordOf hi lo).toNat = hi.toNat * 256 + lo.toNat :=
  calc (wordOf hi lo).toNat
    _ = hi.toNat <<< 8 ||| lo.toNat := BitVec.toNat_append hi lo
    _ = hi.toNat * 256 + lo.toNat := by rw [← Nat.shiftLeft_add_eq_or_of_lt lo.isLt, Nat.shiftLeft_eq]

theorem State.fetch_none {s : State} (h : 4095 < s.pc.toNat + 1) : s.fetch = none := by
  rw [s.fetch_eq, if_neg (Nat.not_le.2 h)]

/-- Neither the result port nor the input byte bears on the next instruction. -/
@[simp] theorem State.setResult_nextInstr (s : State) (r : StepResult) : (s.setResult r).nextInstr = s.nextInstr := rfl

@[simp] theorem State.setRndIn_nextInstr (s : State) (r : Option Byte) : (s.setRndIn r).nextInstr = s.nextInstr := rfl

/-! ### How such a step ends -/

/-- An instruction that does not complete is followed by no tick (R128): the step only uses up the input byte. -/
theorem endStep_of_not_ok {t : State} (h : t.result ≠ some .ok) : endStep (.next t) = .next (t.setRndIn none) := by
  rw [endStep, State.afterExec, if_neg h]

theorem endStep_raise (s : State) (c : Cause) (info : Word) :
    endStep (s.raise c info) = .next (((s.latch c info).setResult (.fault c info)).setRndIn none) :=
  endStep_of_not_ok (by simp)

theorem endStep_block (s : State) : endStep s.block = .next ((s.setResult .blocked).setRndIn none) :=
  endStep_of_not_ok (by simp)

/-- A step that runs Fx0A with no key pressed is blocked. -/
theorem step_blocked {s : State} {x : Nibble} (hi : s.nextInstr = some (.iFx0A x))
    (hk : ∀ k : Fin 16, s.key[k] = false) : step s = .next ((s.setResult .blocked).setRndIn none) := by
  rw [step_exec s hi, exec, execFx0A_block s x hk, endStep_block]

/-! ### The statements -/

/-- Settles O10: outside the bounds the fault entry of the step, inside them the word of the two bytes as a number. -/
theorem fetchReadsTwoBytesOrFaults : Obligations.FetchReadsTwoBytesOrFaults := by
  refine fun s => ⟨fun running high => ?faults, fun low => ?reads⟩
  case faults =>
    have hstep : step s = s.fetchFault := step_fetchFault s running (State.fetch_none high)
    exact ⟨_, hstep.trans (endStep_raise s .fetchOob s.pc), faultTaken_raise (s.setRndIn none) .fetchOob s.pc⟩
  case reads => exact ⟨_, s.fetch_some low, wordOf_toNat _ _⟩

/-- Settles O9: a halted step writes the result port and the input byte alone. -/
theorem haltedStepChangesNothing : Obligations.HaltedStepChangesNothing :=
  fun s halted => ⟨_, step_halted s halted, rfl, (Keeps.setResult s _).trans (.setRndIn _ _)⟩

/-- Settles O11: `pc`, the tick, the result and the input byte, one after the other. -/
theorem unrecognisedWordAdvancesAndTicks : Obligations.UnrecognisedWordAdvancesAndTicks := by
  intro s op running hop hdecode
  refine ⟨_, step_unrecognised s running hop hdecode, rfl, rfl, tickDown_toNat s.dt, tickDown_toNat s.st, ?frame⟩
  have frame := (((Keeps.setPc s (s.pc + 2)).trans (.tick _)).trans (.setResult _ (.decodeError op s.pc))).trans
    (.setRndIn _ none)
  exact frame.mono fun p hp => by simpa only [or_assoc] using hp

/-- Settles O12: a blocked step writes the result port and the input byte alone, and neither bears on the next fetch. -/
theorem blockedStepChangesNothing : Obligations.BlockedStepChangesNothing :=
  fun s x hi hk => ⟨_, step_blocked hi hk, rfl, by simpa using hi, (Keeps.setResult s _).trans (.setRndIn _ _)⟩

end Sys2Proof.Machine
end

section
/-! Jumps, calls and returns (spec/41_control_transfer.md R140 to R143): what a push and a pop leave unchanged, and one
rule for every instruction that completes with a `pc` of its own. -/

namespace Sys2Proof.Machine

/-! ### Addresses -/

theorem zextAddr_eq (nnn : Addr12) : zextAddr nnn = BitVec.ofNat 16 nnn.toNat := (BitVec.ofNat_toNat 16 nnn).symm

theorem zextAddr_toNat (nnn : Addr12) : (zextAddr nnn).toNat = nnn.toNat :=
  BitVec.toNat_setWidth_of_le (by decide)

/-- The sum of a 12-bit address and a byte fits in 16 bits, so it is not reduced (R143). -/
theorem zextAddr_add_zextByte_toNat (nnn : Addr12) (v : Byte) :
    (zextAddr nnn + zextByte v).toNat = nnn.toNat + v.toNat := by
  have hv : (zextByte v).toNat = v.toNat := BitVec.toNat_setWidth_of_le (by decide)
  have fits : nnn.toNat + v.toNat < 2 ^ 16 := by have := nnn.isLt; have := v.isLt; omega
  rw [BitVec.toNat_add, zextAddr_toNat, hv, Nat.mod_eq_of_lt fits]

/-! ### Completing with a jump -/

theorem Keeps.refl (s : State) : Keeps s s fun _ => False := by
  intro p _
  cases p <;> rfl

/-- Completing with a jump adds `pc` and the result to what was touched before it (40_step_cycle.md R126). -/
theorem completed_jump {s u : State} {touched : Part → Prop} (h : Keeps s u touched) (a : Word) :
    Completed s ((u.setPc a).setResult .ok) a touched := by
  have frame := (h.trans (.setPc u a)).trans (.setResult _ .ok)
  refine ⟨rfl, rfl, frame.mono ?_⟩
  rintro p ((before | isPc) | isResult)
  · exact .inr (.inr before)
  · exact .inl isPc
  · exact .inr (.inl isResult)

/-! ### Stack -/

/-- A push with a free slot writes that slot and `sp`, and nothing else (10_state.md R29, R30). -/
theorem State.exists_push (s : State) (a : Word) (h : s.sp.val < 16) :
    ∃ t, s.push a = some t ∧ t.stack[s.sp.val] = a ∧ t.sp.val = s.sp.val + 1 ∧
      Keeps s t fun p => p = .slot ⟨s.sp.val, h⟩ ∨ p = .sp := by
  refine ⟨_, s.push_some a h, Vector.getElem_set_self h, rfl, fun p hp => ?_⟩
  cases p with
  | slot k =>
    have other : s.sp.val ≠ k.val := fun hk => hp (.inl (congrArg Part.slot (Fin.ext hk.symm)))
    exact Vector.getElem_set_ne h k.isLt other
  | sp => exact absurd (.inr rfl) hp
  | _ => rfl

/-- A pop from a stack that is not empty reads the slot below `sp` and writes `sp` alone: the slot is not cleared. -/
theorem State.exists_pop (s : State) (h : s.sp.val ≠ 0) :
    ∃ t, s.pop = some (s.stack[s.sp.val - 1], t) ∧ t.sp.val = s.sp.val - 1 ∧ Keeps s t fun p => p = .sp := by
  refine ⟨_, s.pop_some h, rfl, fun p hp => ?_⟩
  cases p with
  | sp => exact absurd rfl hp
  | _ => rfl

/-! ### The statements -/

/-- Settles O22: both jump from a state in which nothing is touched yet. -/
theorem jumpsSetPc : Obligations.JumpsSetPc := fun nnn s =>
  ⟨⟨_, s.jump_eq _, zextAddr_toNat nnn, completed_jump (.refl s) _⟩,
    ⟨_, s.jump_eq _, zextAddr_add_zextByte_toNat nnn (s.reg 0), completed_jump (.refl s) _⟩⟩

/-- Settles O23: a push of the call's own address and then a jump, or the fault of a full stack. -/
theorem callPushesItsAddress : Obligations.CallPushesItsAddress := by
  refine fun nnn s => ⟨fun free => ?call, fun full => ?overflow⟩
  case call =>
    obtain ⟨t, hpush, hslot, hsp, frame⟩ := s.exists_push s.pc free
    refine ⟨_, exec2nnn_push s nnn hpush, hslot, hsp, ?_⟩
    rw [← zextAddr_eq]
    exact completed_jump frame _
  case overflow =>
    rw [← encode_2nnn]
    exact ⟨_, exec2nnn_overflow s nnn full, faultTaken_raise s _ _⟩

/-- Settles O24: a pop and then a jump 2 past the popped address, or the fault of an empty stack. -/
theorem returnPopsAddress : Obligations.ReturnPopsAddress := by
  refine fun s => ⟨fun inUse => ?ret, fun empty => ?underflow⟩
  case ret =>
    obtain ⟨t, hpop, hsp, frame⟩ := s.exists_pop inUse
    exact ⟨_, exec00EE_pop s hpop, hsp, completed_jump frame _⟩
  case underflow => exact ⟨_, exec00EE_underflow s empty, faultTaken_raise s _ _⟩

end Sys2Proof.Machine
end

section
/-! Skips (spec/42_skips.md R150 to R154): one rule for every conditional skip, and what each condition says of the
registers. -/

namespace Sys2Proof.Machine

/-- A skip on `c` completes at `pc + 4` when the proposition `c` decides holds, at `pc + 2` otherwise, and touches
nothing else (R150). -/
theorem State.skipIf_completes (s : State) {c : Bool} {p : Prop} [Decidable p] (hc : c = true ↔ p) :
    ∃ t, s.skipIf c = .next t ∧ Completed s t (if p then s.pc + 4 else s.pc + 2) fun _ => False := by
  have target : (if p then s.pc + 4 else s.pc + 2) = s.pc + if c then 4 else 2 := by
    simp only [hc, apply_ite (s.pc + ·)]
  rw [target]
  exact ⟨_, s.skipIf_eq c, completed_jump (.refl s) _⟩

/-- The condition of 4xnn: inequality, or equality with `SNE_SWAPPED` (R152). -/
theorem State.sneCond_iff (s : State) (a b : Byte) :
    s.sneCond a b = true ↔ if s.cfg.sneSwapped = true then a = b else a ≠ b := by
  unfold State.sneCond
  cases s.cfg.sneSwapped with
  | false => simp
  | true => simp

/-- Settles O26: 3xnn skips on equality, 4xnn on its parametrised condition. -/
theorem skipsOnImmediate : Obligations.SkipsOnImmediate := fun x nn s =>
  ⟨s.skipIf_completes beq_iff_eq, s.skipIf_completes (s.sneCond_iff (s.reg x) nn)⟩

/-- Settles O27: 5xy0 skips on equality of the registers, 9xy0 on their difference. -/
theorem skipsOnRegisters : Obligations.SkipsOnRegisters := fun _ _ s =>
  ⟨s.skipIf_completes beq_iff_eq, s.skipIf_completes bne_iff_ne⟩

end Sys2Proof.Machine
end

section
/-! Immediates and the random byte (spec/43_immediate_and_random.md R160 to R166): the frames of the register write and
of a draw, and one rule for every instruction that completes inside the host's `Step(r)`. -/

namespace Sys2Proof.Machine

/-! ### Frames -/

theorem Keeps.setReg (s : State) (x : Nibble) (v : Byte) : Keeps s (s.setReg x v) (· = .reg x) := by
  intro p hp
  cases p with
  | reg y => exact s.reg_setReg_ne v fun hy => hp (congrArg Part.reg hy)
  | _ => rfl

theorem Keeps.countDraw (s : State) : Keeps s s.countDraw (· = .draws) := by
  intro p hp
  cases p with
  | draws => exact absurd rfl hp
  | _ => rfl

/-! ### A completed instruction inside a step -/

/-- A completed instruction is followed by the tick (40_step_cycle.md R128), and the step uses up the input byte. -/
theorem endStep_of_ok {t : State} (h : t.result = some .ok) : endStep (.next t) = .next (t.tick.setRndIn none) := by
  rw [endStep, State.afterExec, if_pos h]

/-- `Step(r)` runs the next instruction with `r` on the input; when it completes, the step ends with the tick. -/
theorem stepWith_of_ok {s t : State} {i : Instr} {r : Byte} (hi : s.nextInstr = some i)
    (hexec : exec i (s.setRndIn (some r)) = .next t) (hok : t.result = some .ok) :
    stepWith r s = .next (t.tick.setRndIn none) := by
  have hstep : stepWith r s = endStep (exec i (s.setRndIn (some r))) := step_exec _ (by simpa using hi)
  rw [hstep, hexec, endStep_of_ok hok]

/-- A step adds the timers and the input byte to what its completed instruction touches. -/
theorem Completed.stepWith {s t : State} {r : Byte} {pc : Word} {touched : Part → Prop}
    (h : Completed (s.setRndIn (some r)) t pc touched) :
    Completed s (t.tick.setRndIn none) pc fun p => touched p ∨ p = .dt ∨ p = .st ∨ p = .rndIn := by
  obtain ⟨hok, hpc, frame⟩ := h
  have whole := (((Keeps.setRndIn s _).trans frame).trans (.tick t)).trans (.setRndIn _ none)
  refine ⟨hok, hpc, whole.mono fun p hp => ?_⟩
  tauto

/-! ### Cxnn -/

/-- In the step that the host gives a byte, that byte is the random input. -/
theorem State.rnd_of_rndIn {s : State} {r : Byte} (h : s.rndIn = some r) : s.rnd = r := by
  rw [State.rnd, h, Option.getD_some]

/-- Cxnn completes in every state, wherever its byte comes from: it writes Vx and counts the draw (R166; log 5). -/
theorem execCxnn_completes (x : Nibble) (nn : Byte) (s : State) :
    ∃ t, exec (.iCxnn x nn) s = .next t ∧ t.reg x = s.rnd &&& nn ∧ t.draws = s.draws + 1 ∧
      Completed s t (s.pc + 2) fun p => p = .reg x ∨ p = .draws :=
  ⟨_, State.advance_eq _, s.reg_setReg_self x _, rfl, completed_jump ((Keeps.setReg s x _).trans (.countDraw _)) _⟩

/-! ### The statements -/

/-- Settles O29: one register write and the advance; the byte sum is reduced modulo 256. -/
theorem loadAndAddImmediate : Obligations.LoadAndAddImmediate := fun x nn s =>
  ⟨⟨_, State.advance_eq _, s.reg_setReg_self x nn, completed_jump (.setReg s x nn) _⟩,
    ⟨_, State.advance_eq _, (congrArg BitVec.toNat (s.reg_setReg_self x _)).trans (BitVec.toNat_add ..),
      completed_jump (.setReg s x _) _⟩⟩

/-- Settles O30: Cxnn by itself, and the step around it, which puts `r` on the input first and ticks last. -/
theorem randomByteUnderMask : Obligations.RandomByteUnderMask := by
  refine fun x nn s => ⟨?instruction, fun r hi => ?step⟩
  case instruction =>
    obtain ⟨t, hexec, hreg, -, done⟩ := execCxnn_completes x nn s
    exact ⟨t, hexec, fun r hr => by rw [hreg, State.rnd_of_rndIn hr], done⟩
  case step =>
    obtain ⟨t, hexec, hreg, -, done⟩ := execCxnn_completes x nn (s.setRndIn (some r))
    obtain ⟨hok, hpc, frame⟩ := done.stepWith
    rw [State.rnd_of_rndIn (State.setRndIn_rndIn s _)] at hreg
    refine ⟨_, stepWith_of_ok hi hexec hok, hreg, hok, hpc, frame.mono fun p hp => ?_⟩
    tauto

end Sys2Proof.Machine
end

section
/-! The index register (spec/43_immediate_and_random.md R164, 48_index_and_memory.md R220, R222): its frame, and its new
values as numbers. -/

namespace Sys2Proof.Machine

theorem Keeps.setIndex (s : State) (v : Word) : Keeps s (s.setIndex v) (· = .index) := by
  intro p hp
  cases p with
  | index => exact absurd rfl hp
  | _ => rfl

/-- Every instruction that writes `I` and advances completes with the new value and changes nothing else. -/
theorem State.setIndex_advance_completes (s : State) {v : Word} {n : Nat} (hv : v.toNat = n) :
    ∃ t, (s.setIndex v).advance = .next t ∧ t.I.toNat = n ∧ Completed s t (s.pc + 2) fun p => p = .index :=
  ⟨_, State.advance_eq _, hv, completed_jump (.setIndex s v) _⟩

theorem zextByte_toNat (v : Byte) : (zextByte v).toNat = v.toNat := BitVec.toNat_setWidth_of_le (by decide)

/-- The sum is kept to 16 bits (R220). -/
theorem add_zextByte_toNat (a : Word) (v : Byte) : (a + zextByte v).toNat = (a.toNat + v.toNat) % 65536 := by
  rw [BitVec.toNat_add, zextByte_toNat]

/-- The glyph address of any byte, not only of a digit, fits in 16 bits (R222). -/
theorem glyphAddr_toNat (v : Byte) : (glyphAddr v).toNat = 0x50 + 5 * v.toNat := by
  have hv : v.toNat < 256 := v.isLt
  rw [glyphAddr, BitVec.toNat_add, BitVec.toNat_mul, zextByte_toNat]
  change (0x50 + 5 * v.toNat % 65536) % 65536 = _
  omega

/-- Settles O37: three writes of `I`, each value by its own lemma. -/
theorem indexRegisterWrites : Obligations.IndexRegisterWrites :=
  ⟨fun nnn s => s.setIndex_advance_completes (zextAddr_toNat nnn), fun x s =>
    ⟨s.setIndex_advance_completes (add_zextByte_toNat s.I (s.reg x)),
      s.setIndex_advance_completes (glyphAddr_toNat (s.reg x))⟩⟩

end Sys2Proof.Machine
end

section
/-! Moves, logic, arithmetic and shifts of register pairs (spec/44_alu.md R171 to R180): one rule for every instruction
that writes a result, one for every instruction that writes a result and then its flag, and the results and flags as
numbers. -/

namespace Sys2Proof.Machine

/-! ### Writing a result, with or without a flag, and advancing -/

/-- Every instruction that writes one register and advances completes with that value and changes nothing else. -/
theorem State.setReg_advance_completes (s : State) (x : Nibble) (v : Byte) :
    ∃ t, (s.setReg x v).advance = .next t ∧ t.reg x = v ∧ Completed s t (s.pc + 2) fun p => p = .reg x :=
  ⟨_, State.advance_eq _, s.reg_setReg_self x v, completed_jump (.setReg s x v) _⟩

theorem Keeps.setResultAndFlag (s : State) (x : Nibble) (v : Byte) (f : Bool) :
    Keeps s (s.setResultAndFlag x v f) fun p => p = .reg x ∨ p = .reg regF :=
  (Keeps.setReg s x v).trans (.setReg _ regF _)

/-- Every instruction that writes a result and its flag and advances completes with both, the result lost where x = F
(10_state.md R25), and changes nothing else. -/
theorem State.setResultAndFlag_advance_completes (s : State) (x : Nibble) {v : Byte} {f : Bool} {result flag : Nat}
    (hv : v.toNat = result) (hf : (flagByte f).toNat = flag) :
    ∃ t, (s.setResultAndFlag x v f).advance = .next t ∧ (x ≠ regF → (t.reg x).toNat = result) ∧
      (t.reg regF).toNat = flag ∧ Completed s t (s.pc + 2) fun p => p = .reg x ∨ p = .reg regF := by
  have reads (r : Nibble) := s.reg_setResultAndFlag x r v f
  refine ⟨_, State.advance_eq _, fun hx => ?result, ?flag, completed_jump (.setResultAndFlag s x v f) _⟩
  case result => rw [State.setResult_reg, State.setPc_reg, reads, if_neg hx, if_pos rfl, hv]
  case flag => rw [State.setResult_reg, State.setPc_reg, reads, if_pos rfl, hf]

/-! ### Flags as numbers -/

theorem flagByte_toNat (f : Bool) : (flagByte f).toNat = f.toNat := by cases f <;> rfl

theorem flagByte_decide_toNat (p : Prop) [Decidable p] : (flagByte (decide p)).toNat = if p then 1 else 0 := by
  rw [flagByte_decide, apply_ite BitVec.toNat]
  rfl

theorem flagByte_droppedRight_toNat (v : Byte) : (flagByte (droppedRight v)).toNat = v.toNat % 2 := by
  rw [flagByte_toNat, droppedRight, BitVec.getLsbD, Nat.toNat_testBit, Nat.pow_zero, Nat.div_one]

theorem flagByte_droppedLeft_toNat (v : Byte) : (flagByte (droppedLeft v)).toNat = v.toNat / 128 := by
  have bitIsHigh : v.toNat / 2 ^ 7 < 2 := by have := v.isLt; omega
  rw [flagByte_toNat, droppedLeft, BitVec.getLsbD, Nat.toNat_testBit]
  exact Nat.mod_eq_of_lt bitIsHigh

/-! ### Results as numbers -/

theorem sub_toNat (a b : Byte) : (a - b).toNat = (256 + a.toNat - b.toNat) % 256 := by
  have hb : b.toNat < 256 := b.isLt
  rw [BitVec.toNat_sub]
  omega

theorem ushiftRight_one_toNat (v : Byte) : (v >>> 1).toNat = v.toNat / 2 := by
  rw [BitVec.toNat_ushiftRight, Nat.shiftRight_eq_div_pow, Nat.pow_one]

theorem shiftLeft_one_toNat (v : Byte) : (v <<< 1).toNat = v.toNat * 2 % 256 := by
  rw [BitVec.toNat_shiftLeft, Nat.shiftLeft_eq, Nat.pow_one]

/-! ### The statements -/

/-- Settles O32: four register writes, the three logical results bit by bit. -/
theorem moveAndLogic : Obligations.MoveAndLogic := by
  refine fun x y s => ⟨s.setReg_advance_completes x (s.reg y), ?or, ?and, ?xor⟩
  case or =>
    obtain ⟨t, hexec, hreg, done⟩ := s.setReg_advance_completes x (s.reg x ||| s.reg y)
    exact ⟨t, hexec, fun k _ => by rw [hreg, BitVec.getLsbD_or], done⟩
  case and =>
    obtain ⟨t, hexec, hreg, done⟩ := s.setReg_advance_completes x (s.reg x &&& s.reg y)
    exact ⟨t, hexec, fun k _ => by rw [hreg, BitVec.getLsbD_and], done⟩
  case xor =>
    obtain ⟨t, hexec, hreg, done⟩ := s.setReg_advance_completes x (s.reg x ^^^ s.reg y)
    exact ⟨t, hexec, fun k _ => by rw [hreg, BitVec.getLsbD_xor], done⟩

/-- Settles O33: the sum modulo 256, then the carry. -/
theorem addWithCarry : Obligations.AddWithCarry := fun x _ s =>
  s.setResultAndFlag_advance_completes x (BitVec.toNat_add ..) (flagByte_decide_toNat _)

/-- Settles O34: the same rule with the operands in either order. -/
theorem subtractWithNotBorrow : Obligations.SubtractWithNotBorrow := fun x _ s =>
  ⟨s.setResultAndFlag_advance_completes x (sub_toNat ..) (flagByte_decide_toNat _),
    s.setResultAndFlag_advance_completes x (sub_toNat ..) (flagByte_decide_toNat _)⟩

/-- Settles O35: the shifted source as a number and the bit it drops, for either setting of `SHIFT_USES_VY`. -/
theorem shiftsDropABit : Obligations.ShiftsDropABit := by
  rintro x y s _ rfl
  exact ⟨s.setResultAndFlag_advance_completes x (ushiftRight_one_toNat _) (flagByte_droppedRight_toNat _),
    s.setResultAndFlag_advance_completes x (shiftLeft_one_toNat _) (flagByte_droppedLeft_toNat _)⟩

end Sys2Proof.Machine
end

section
/-! The screen (spec/45_display.md R190 to R193): the frames of a new screen and of a draw, and the pixels of a
completed draw. -/

namespace Sys2Proof.Machine

/-- A new screen may change any pixel, and `REDRAW` alone besides (R190). -/
theorem Keeps.setScreen (s : State) (fb : Vector PixelRow 32) :
    Keeps s (s.setScreen fb) fun p => p = .redraw ∨ ∃ r c, p = .pixel r c := by
  intro p hp
  cases p with
  | redraw => exact absurd (.inl rfl) hp
  | pixel r c => exact absurd (.inr ⟨r, c, rfl⟩) hp
  | _ => rfl

/-- A draw writes the screen and then VF (R192). -/
theorem Keeps.drawn (s : State) (x y n : Nibble) :
    Keeps s (s.drawn x y n) fun p => p = .redraw ∨ p = .reg regF ∨ ∃ r c, p = .pixel r c := by
  refine ((Keeps.setScreen s _).trans (.setReg _ regF _)).mono ?_
  rintro p ((isRedraw | isPixel) | isFlag)
  · exact .inl isRedraw
  · exact .inr (.inr isPixel)
  · exact .inr (.inl isFlag)

/-- A draw inverts each pixel under a 1 pixel of the sprite at its reduced start, and no other (R191, R192). -/
theorem State.pixel_drawn (s : State) (x y n : Nibble) (r : Fin 32) (c : Fin 64) :
    (s.drawn x y n).pixel r c =
      (s.pixel r c ^^ spritePixel s n.toNat ((s.reg x).toNat % 64) ((s.reg y).toNat % 32) r c) := by
  rw [State.drawn, State.setFlag, State.setReg_pixel, State.pixel_drawSprite, spriteRow_eq_spritePixel,
    State.startColumn, State.startRow]

@[simp] theorem State.drawn_pc (s : State) (x y n : Nibble) : (s.drawn x y n).pc = s.pc := by
  rw [State.drawn, State.setFlag, State.setReg_pc, State.setScreen_pc]

/-- A completed draw moves `pc` on from where it was before the draw (R192). -/
theorem State.drawn_advance (s : State) (x y n : Nibble) :
    (s.drawn x y n).advance = .next (((s.drawn x y n).setPc (s.pc + 2)).setResult .ok) := by
  rw [State.advance_eq, State.drawn_pc]

@[simp] theorem State.pixel_setScreen_clear (s : State) (r : Fin 32) (c : Fin 64) :
    (s.setScreen (Vector.replicate 32 0)).pixel r c = false := by
  simp [State.pixel]

/-- Settles O38: the cleared screen, and its frame. -/
theorem clearScreen : Obligations.ClearScreen := fun s =>
  ⟨_, State.advance_eq _, s.pixel_setScreen_clear, rfl, completed_jump (.setScreen s _) _⟩

/-- Settles O39: inside the bounds the draw, its pixels, flag and frame each by the rule for it; outside them the fault.
(`drawSprite` alone is the model's drawing function.) -/
theorem Display.drawSprite : Obligations.DrawSprite := by
  refine fun x y n s => ⟨fun inside => ?draws, fun nonempty outside => ?faults⟩
  case draws =>
    have done := s.drawn_advance x y n
    obtain ⟨flagIsBit, flagIffErased⟩ := flag_of_drawn done
    refine ⟨_, (execDxyn_ok s x y n (by omega)).trans done, fun r c => ?pixels, flagIsBit, flagIffErased, rfl,
      completed_jump (.drawn s x y n) _⟩
    case pixels => rw [State.setResult_pixel, State.setPc_pixel, State.pixel_drawn]
  case faults => exact ⟨_, execDxyn_fault s x y n nonempty (by omega), faultTaken_raise s _ _⟩

end Sys2Proof.Machine
end

section
/-! The keypad (spec/46_keypad.md R201 to R203): skips on a key and the fault of a key number above 15, the wait for a
key. -/

namespace Sys2Proof.Machine

/-- A key index is kept whole in a byte (R203). -/
theorem keyByte_toNat (k : Fin 16) : (BitVec.ofNat 8 k.val).toNat = k.val := by
  rw [BitVec.toNat_ofNat, Nat.mod_eq_of_lt (k.isLt.trans (by decide))]

/-- Settles O28: a key number below 16 gives the rule of every skip, one above 15 the fault. -/
theorem skipsOnKey : Obligations.SkipsOnKey := by
  refine fun x s => ⟨fun key => ⟨?pressed, ?notPressed⟩, fun noKey => ?faults⟩
  case pressed =>
    rw [exec, execEx9E_key s x key]
    exact s.skipIf_completes Iff.rfl
  case notPressed =>
    rw [exec, execExA1_key s x key]
    exact s.skipIf_completes (iff_of_eq (Bool.not_eq_true' _))
  case faults =>
    rw [← zextByte_eq]
    exact ⟨⟨_, execEx9E_fault s x noKey, faultTaken_raise s _ _⟩,
      ⟨_, execExA1_fault s x noKey, faultTaken_raise s _ _⟩⟩

/-- Settles O41: with a key pressed one register write, of the index `KEY_SELECT` names; with none the block. -/
theorem waitForKey : Obligations.WaitForKey := by
  refine fun x s => ⟨fun somePressed => ?stores, fun nonePressed => ?blocks⟩
  case stores =>
    have notAllUp : ¬ ∀ k : Fin 16, s.key[k] = false := by simpa using somePressed
    obtain ⟨t, hexec, hreg, done⟩ := s.setReg_advance_completes x (BitVec.ofNat 8 (selectKey s.cfg s.key).val)
    refine ⟨t, (execFx0A_key s x notAllUp).trans hexec,
      ⟨selectKey s.cfg s.key, selectKey_pressed _ _ somePressed, ?index, fun byDefault j below => ?lowest⟩, done⟩
    case index => rw [hreg, keyByte_toNat]
    case lowest =>
      refine Bool.eq_false_iff.2 fun pressed => ?_
      exact Nat.not_le.2 below (selectKey_lowest _ _ byDefault j pressed)
  case blocks => exact ⟨_, execFx0A_block s x nonePressed, rfl, .setResult s _⟩

end Sys2Proof.Machine
end

section
/-! The timers (spec/47_timers.md R210 to R214): the writes of DT and ST, the tick after a completed instruction, and what
any step and any operation of the host does to both. -/

namespace Sys2Proof.Machine

/-! ### Writing a timer and advancing -/

theorem Keeps.setDelay (s : State) (v : Byte) : Keeps s (s.setDelay v) (· = .dt) := by
  intro p hp
  cases p with
  | dt => exact absurd rfl hp
  | _ => rfl

theorem Keeps.setSound (s : State) (v : Byte) : Keeps s (s.setSound v) (· = .st) := by
  intro p hp
  cases p with
  | st => exact absurd rfl hp
  | _ => rfl

/-- Fx15 completes in every state and writes DT alone (R211). -/
theorem execFx15_completes (x : Nibble) (s : State) :
    ∃ t, exec (.iFx15 x) s = .next t ∧ t.dt = s.reg x ∧ Completed s t (s.pc + 2) fun p => p = .dt :=
  ⟨_, State.advance_eq _, rfl, completed_jump (.setDelay s _) _⟩

/-- Fx18 completes in every state and writes ST alone (R212). -/
theorem execFx18_completes (x : Nibble) (s : State) :
    ∃ t, exec (.iFx18 x) s = .next t ∧ t.st = s.reg x ∧ Completed s t (s.pc + 2) fun p => p = .st :=
  ⟨_, State.advance_eq _, rfl, completed_jump (.setSound s _) _⟩

/-- A step whose instruction completes ends with the tick: each timer goes down by one with floor 0 from what the
instruction left in it, and the registers stay as the instruction left them (40_step_cycle.md R128). -/
theorem step_ticks {s t : State} {i : Instr} (hi : s.nextInstr = some i) (hexec : exec i s = .next t)
    (hok : t.result = some .ok) :
    ∃ u, step s = .next u ∧ (∀ x, u.reg x = t.reg x) ∧ u.dt.toNat = t.dt.toNat - 1 ∧ u.st.toNat = t.st.toNat - 1 := by
  refine ⟨t.tick.setRndIn none, ?_, fun _ => rfl, tickDown_toNat t.dt, tickDown_toNat t.st⟩
  rw [step_exec s hi, hexec, endStep_of_ok hok]

/-- Settles O42: each instruction by its own rule, and the whole step by the tick after it. -/
theorem timerInstructions : Obligations.TimerInstructions := by
  intro x s
  have load := s.setReg_advance_completes x s.dt
  refine ⟨load, execFx15_completes x s, execFx18_completes x s, fun hi => ?fx07, fun hi => ?fx15, fun hi => ?fx18⟩
  case fx07 =>
    obtain ⟨t, hexec, hreg, hok, -, frame⟩ := load
    have hdt : t.dt = s.dt := frame .dt (by simp)
    obtain ⟨u, hstep, regs, ticked, -⟩ := step_ticks hi hexec hok
    exact ⟨u, hstep, (regs x).trans hreg, by rw [ticked, hdt]⟩
  case fx15 =>
    obtain ⟨t, hexec, hdt, hok, -, -⟩ := execFx15_completes x s
    obtain ⟨u, hstep, -, ticked, -⟩ := step_ticks hi hexec hok
    exact ⟨u, hstep, by rw [ticked, hdt]⟩
  case fx18 =>
    obtain ⟨t, hexec, hst, hok, -, -⟩ := execFx18_completes x s
    obtain ⟨u, hstep, -, -, ticked⟩ := step_ticks hi hexec hok
    exact ⟨u, hstep, by rw [ticked, hst]⟩

/-! ### The timers before the tick of a step -/

/-- DT before the tick of a step that runs the instruction, if it runs one: what Fx15 writes, else what the step found. -/
def State.delayBeforeTick (s : State) : Option Instr → Byte
  | some (.iFx15 x) => s.reg x
  | _ => s.dt

/-- ST before the tick of a step that runs the instruction, if it runs one: what Fx18 writes, else what the step found. -/
def State.soundBeforeTick (s : State) : Option Instr → Byte
  | some (.iFx18 x) => s.reg x
  | _ => s.st

theorem State.delayBeforeTick_of_ne (s : State) {i : Option Instr} (h : ∀ x, i ≠ some (.iFx15 x)) :
    s.delayBeforeTick i = s.dt := by
  unfold State.delayBeforeTick
  split
  case h_1 x => exact absurd rfl (h x)
  case h_2 => rfl

theorem State.soundBeforeTick_of_ne (s : State) {i : Option Instr} (h : ∀ x, i ≠ some (.iFx18 x)) :
    s.soundBeforeTick i = s.st := by
  unfold State.soundBeforeTick
  split
  case h_1 x => exact absurd rfl (h x)
  case h_2 => rfl

@[simp] theorem State.drawn_dt (s : State) (x y n : Nibble) : (s.drawn x y n).dt = s.dt := by
  rw [State.drawn, State.setFlag, State.setReg_dt, State.setScreen_dt]

@[simp] theorem State.drawn_st (s : State) (x y n : Nibble) : (s.drawn x y n).st = s.st := by
  rw [State.drawn, State.setFlag, State.setReg_st, State.setScreen_st]

/-- An instruction that neither faults nor blocks completes with a jump, from a state in which only Fx15 has written DT
and only Fx18 has written ST (10_state.md R20). -/
theorem exec_completes_timers (i : Instr) (s : State) (hf : faultOf s i = none)
    (hb : ¬ ((∃ x, i = .iFx0A x) ∧ ∀ k : Fin 16, s.key[k] = false)) :
    ∃ (u : State) (a : Word), exec i s = u.jump a ∧ u.dt = s.delayBeforeTick (some i) ∧ u.st = s.soundBeforeTick (some i) := by
  cases i with
  | i00E0 | i1nnn | i6xnn | i7xnn | i8xy0 | i8xy1 | i8xy2 | i8xy3 | i8xy4 | i8xy5 | i8xy6 | i8xy7 | i8xyE | iAnnn
  | iBnnn | iCxnn | iFx07 | iFx15 | iFx18 | iFx1E | iFx29 => exact ⟨_, _, rfl, rfl, rfl⟩
  | i3xnn | i4xnn | i5xy0 | i9xy0 => exact ⟨_, _, State.skipIf_jump .., rfl, rfl⟩
  | i00EE => exact ⟨_, _, exec00EE_pop s (s.pop_some (faultCondition_false hf)), rfl, rfl⟩
  | i2nnn nnn =>
    have notFull : s.sp.val ≠ 16 := faultCondition_false hf
    exact ⟨_, _, exec2nnn_push s nnn (s.push_some s.pc (by omega)), rfl, rfl⟩
  | iDxyn x y n =>
    have inside := faultCondition_false hf
    exact ⟨_, _, execDxyn_ok s x y n (by omega), s.drawn_dt x y n, s.drawn_st x y n⟩
  | iEx9E x =>
    have isKey := faultCondition_false hf
    exact ⟨_, _, (execEx9E_key s x (by omega)).trans (s.skipIf_jump _), rfl, rfl⟩
  | iExA1 x =>
    have isKey := faultCondition_false hf
    exact ⟨_, _, (execExA1_key s x (by omega)).trans (s.skipIf_jump _), rfl, rfl⟩
  | iFx0A x => exact ⟨_, _, execFx0A_key s x fun noKey => hb ⟨⟨x, rfl⟩, noKey⟩, rfl, rfl⟩
  | iFx33 x =>
    have inside := faultCondition_false hf
    exact ⟨_, _, execFx33_ok s x (by omega), s.setBytes_dt .., s.setBytes_st ..⟩
  | iFx55 x =>
    have inside := faultCondition_false hf
    exact ⟨_, _, execFx55_ok s x (by omega), s.setBytes_dt .., s.setBytes_st ..⟩
  | iFx65 x =>
    have inside := faultCondition_false hf
    exact ⟨_, _, execFx65_ok s x (by omega), s.setRegs_dt _, s.setRegs_st _⟩

/-! ### What a step does to the timers -/

/-- The result of a step that ticks (R214). -/
def TickResult (t : State) : Prop := t.result = some .ok ∨ ∃ op addr, t.result = some (.decodeError op addr)

/-- The result of a step that does not tick (R214). -/
def RestResult (t : State) : Prop := t.result = some .blocked ∨ ∃ c info, t.result = some (.fault c info)

theorem TickResult.not_rest {t : State} (ticks : TickResult t) : ¬ RestResult t := by
  rcases ticks with hr | ⟨op, addr, hr⟩
  · simp [RestResult, hr]
  · simp [RestResult, hr]

/-- Both timers went down from what the instruction of the step left in them. -/
def TimersTicked (s t : State) : Prop :=
  t.dt = tickDown (s.delayBeforeTick s.nextInstr) ∧ t.st = tickDown (s.soundBeforeTick s.nextInstr)

/-- What a step leaves when its instruction takes a fault, blocks or completes (40_step_cycle.md R126 to R128). -/
theorem step_exec_ticked_or_rested {s t : State} {i : Instr} (hi : s.nextInstr = some i)
    (h : endStep (exec i s) = .next t) :
    TickResult t ∧ TimersTicked s t ∨ RestResult t ∧ t.dt = s.dt ∧ t.st = s.st := by
  rcases exec_shape i s with ⟨c, info, -, hexec⟩ | ⟨-, -, -, hexec⟩ | ⟨hf, hb, -⟩
  · rw [hexec, endStep_raise] at h
    cases h
    exact .inr ⟨.inr ⟨c, info, rfl⟩, rfl, rfl⟩
  · rw [hexec, endStep_block] at h
    cases h
    exact .inr ⟨.inl rfl, rfl, rfl⟩
  · obtain ⟨u, a, hexec, hdt, hst⟩ := exec_completes_timers i s hf hb
    rw [hexec, State.jump_eq, endStep_of_ok rfl] at h
    cases h
    rw [TimersTicked, hi, ← hdt, ← hst]
    exact .inl ⟨.inl rfl, rfl, rfl⟩

/-- Every step ticks or leaves both timers alone, and its result says which: a halted core and a failed fetch do not tick,
an unrecognised word does, an instruction by the way it ends. -/
theorem step_ticked_or_rested {s t : State} (h : step s = .next t) :
    TickResult t ∧ TimersTicked s t ∨ RestResult t ∧ t.dt = s.dt ∧ t.st = s.st := by
  rcases step_cases s with ⟨-, -, hstep⟩ | ⟨-, -, -, hstep⟩ | ⟨op, -, -, hnone, hstep⟩ | ⟨i, -, -, hi, hstep⟩
  · rw [hstep] at h
    cases h
    exact .inr ⟨.inr ⟨_, _, rfl⟩, rfl, rfl⟩
  · rw [hstep] at h
    cases h
    exact .inr ⟨.inr ⟨_, _, rfl⟩, rfl, rfl⟩
  · rw [hstep] at h
    cases h
    rw [TimersTicked, hnone]
    exact .inl ⟨.inr ⟨_, _, rfl⟩, rfl, rfl⟩
  · exact step_exec_ticked_or_rested hi (hstep ▸ h)

/-- The decrements as numbers, by whether the step ran Fx15 and Fx18. -/
theorem TimersTicked.toNat {s t : State} (h : TimersTicked s t) :
    (∀ x, s.nextInstr = some (.iFx15 x) → t.dt.toNat = (s.reg x).toNat - 1) ∧
    ((∀ x, s.nextInstr ≠ some (.iFx15 x)) → t.dt.toNat = s.dt.toNat - 1) ∧
    (∀ x, s.nextInstr = some (.iFx18 x) → t.st.toNat = (s.reg x).toNat - 1) ∧
    ((∀ x, s.nextInstr ≠ some (.iFx18 x)) → t.st.toNat = s.st.toNat - 1) := by
  obtain ⟨hdt, hst⟩ := h
  rw [hdt, hst, tickDown_toNat, tickDown_toNat]
  refine ⟨fun x hi => ?fx15, fun hi => ?notFx15, fun x hi => ?fx18, fun hi => ?notFx18⟩
  case fx15 => rw [hi, State.delayBeforeTick]
  case notFx15 => rw [s.delayBeforeTick_of_ne hi]
  case fx18 => rw [hi, State.soundBeforeTick]
  case notFx18 => rw [s.soundBeforeTick_of_ne hi]

/-! ### The host's operations -/

theorem State.loadProgram_timers (s : State) (bytes : List Byte) :
    (s.loadProgram bytes).2.dt = s.dt ∧ (s.loadProgram bytes).2.st = s.st := by
  unfold State.loadProgram
  split
  case isTrue => exact ⟨rfl, rfl⟩
  case isFalse => exact ⟨s.setBytes_dt .., s.setBytes_st ..⟩

theorem State.hostSetKey_timers (s : State) (index : Byte) (pressed : Bool) :
    (s.hostSetKey index pressed).dt = s.dt ∧ (s.hostSetKey index pressed).st = s.st := by
  unfold State.hostSetKey
  split
  case h_1 => exact ⟨rfl, rfl⟩
  case h_2 => exact ⟨rfl, rfl⟩

/-- Of the host's operations only `Reset` and `Step` can change a timer. -/
theorem hostOp_keepsTimers {op : HostOp} {s t : State} (notReset : op ≠ .reset) (notStep : ∀ rnd, op ≠ .step rnd)
    (h : op.apply s = .next t) : t.dt = s.dt ∧ t.st = s.st := by
  cases op with
  | reset => exact absurd rfl notReset
  | step rnd => exact absurd rfl (notStep rnd)
  | loadProgram bytes => cases h; exact s.loadProgram_timers bytes
  | setKey index pressed => cases h; exact s.hostSetKey_timers index pressed
  | clearRedraw => cases h; exact ⟨rfl, rfl⟩

/-- Settles O13: a step ticks or rests and its result says which; the other operations of the host leave the timers alone,
and `Reset` clears them. -/
theorem timersCountCompletedSteps : Obligations.TimersCountCompletedSteps := by
  refine ⟨fun s t h => ?step, fun op s t notReset notStep h => hostOp_keepsTimers notReset notStep h,
    fun s => ⟨s.hostReset_dt, s.hostReset_st⟩⟩
  rcases step_ticked_or_rested h with ⟨ticks, ticked⟩ | ⟨rests, same⟩
  · exact ⟨fun _ => ticked.toNat, fun rests => absurd rests ticks.not_rest⟩
  · exact ⟨fun ticks => absurd rests (TickResult.not_rest ticks), fun _ => same⟩

end Sys2Proof.Machine
end

section
/-! Decoding (spec/30_encoding.md R91, R94, R100): the word of every instruction decodes to it, and the words that decode
to nothing are those of the list. -/

namespace Sys2Proof

/-! ### The word of an instruction -/

/-- Decoding the word of any instruction gives the instruction back: the top nibble selects its family, the low nibble or
the low byte its row in the family, and the operand fields are the ones the word was put together from (R91, R94). -/
theorem decode_encode (i : Instr) : decode (encode i) = some i := by
  cases i with
  | i00E0 => rfl
  | i00EE => rfl
  | i1nnn nnn | i2nnn nnn | iAnnn nnn | iBnnn nnn =>
    rw [encode, decode, opTop_wordNNN, opNNN_wordNNN]
    rfl
  | i3xnn x nn | i4xnn x nn | i6xnn x nn | i7xnn x nn | iCxnn x nn =>
    rw [encode, decode, opTop_wordXNN, opX_wordXNN, opNN_wordXNN]
    rfl
  | i5xy0 x y | i9xy0 x y | iDxyn x y =>
    rw [encode, decode, opTop_wordXYN, opX_wordXYN, opY_wordXYN, opN_wordXYN]
    rfl
  | i8xy0 x y | i8xy1 x y | i8xy2 x y | i8xy3 x y | i8xy4 x y | i8xy5 x y | i8xy6 x y | i8xy7 x y | i8xyE x y =>
    refine (decode_eq_decode8 (opTop_wordXYN _ x y _)).trans ?_
    rw [decode8, opX_wordXYN, opY_wordXYN, opN_wordXYN]
    rfl
  | iEx9E x | iExA1 x =>
    refine (decode_eq_decodeE (opTop_wordXNN _ x _)).trans ?_
    rw [decodeE, opX_wordXNN, opNN_wordXNN]
    rfl
  | iFx07 x | iFx0A x | iFx15 x | iFx18 x | iFx1E x | iFx29 x | iFx33 x | iFx55 x | iFx65 x =>
    refine (decode_eq_decodeF (opTop_wordXNN _ x _)).trans ?_
    rw [decodeF, opX_wordXNN, opNN_wordXNN]
    rfl

/-- Settles O15: the case split over the 34 instructions is `decode_encode`. -/
theorem decodeOfEncode : Obligations.DecodeOfEncode := decode_encode

/-- Settles O16: by the branches of the decoder. -/
theorem encodeOfDecode : Obligations.EncodeOfDecode := fun _ _ => encode_of_decode

/-- Settles O21: each of the seven words is evaluated. -/
theorem sampleWordsDecode : Obligations.SampleWordsDecode := by
  unfold Obligations.SampleWordsDecode
  decide

/-! ### The bytes of an instruction -/

theorem highByte_eq (op : Word) : highByte op = BitVec.ofNat 8 (op.toNat / 256) := by
  apply BitVec.eq_of_toNat_eq
  exact (field_toNat op 8 8).trans (BitVec.toNat_ofNat ..).symm

theorem lowByte_eq (op : Word) : lowByte op = BitVec.ofNat 8 (op.toNat % 256) := by
  apply BitVec.eq_of_toNat_eq
  exact (opNN_toNat op).trans ((Nat.mod_mod ..).symm.trans (BitVec.toNat_ofNat ..).symm)

/-- Settles O17: the two bytes make up the word again, which decodes to the instruction. -/
theorem bytesDecodeToTheirInstruction : Obligations.BytesDecodeToTheirInstruction := by
  intro i rest
  rw [← highByte_eq, ← lowByte_eq, decodeBytes, wordOf_bytes, decode_encode]

/-! ### Unrecognised words (R100) -/

theorem opTop_toNat (op : Word) : (opTop op).toNat = op.toNat / 4096 := by
  have hop := op.isLt
  rw [opTop, field_toNat]
  omega

theorem decode0_eq_none_iff (op : Word) : decode0 op = none ↔ op.toNat ≠ 0x00E0 ∧ op.toNat ≠ 0x00EE := by
  have ne_iff (w : Word) : op.toNat ≠ w.toNat ↔ op ≠ w := not_congr BitVec.toNat_inj
  refine Iff.trans ?_ (and_congr (ne_iff 0x00E0) (ne_iff 0x00EE)).symm
  rw [decode0]
  split
  case isTrue h => simp [h]
  case isFalse h => exact ⟨fun isNone => ⟨h, by simpa using isNone⟩, fun ⟨_, other⟩ => if_neg other⟩

theorem decode8_eq_none_iff (op : Word) :
    decode8 op = none ↔ (opN op).toNat ∈ [0x8, 0x9, 0xA, 0xB, 0xC, 0xD, 0xF] := by
  have hn : (opN op).toNat < 16 := (opN op).isLt
  unfold decode8
  split
  case h_10 => simp only [true_iff, List.mem_cons, List.not_mem_nil]; grind
  all_goals simp [*]

theorem decodeE_eq_none_iff (op : Word) : decodeE op = none ↔ (opNN op).toNat ∉ [0x9E, 0xA1] := by
  unfold decodeE
  split
  case h_3 => grind
  all_goals simp [*]

theorem decodeF_eq_none_iff (op : Word) :
    decodeF op = none ↔ (opNN op).toNat ∉ [0x07, 0x0A, 0x15, 0x18, 0x1E, 0x29, 0x33, 0x55, 0x65] := by
  unfold decodeF
  split
  case h_10 => simp only [true_iff, List.mem_cons, List.not_mem_nil]; grind
  all_goals simp [*]

theorem lowZero_eq_none_iff (op : Word) (j : Instr) :
    (if opN op = 0 then some j else none) = none ↔ (opN op).toNat ≠ 0 := by
  have hzero : (opN op).toNat = 0 ↔ opN op = 0 := BitVec.toNat_inj (y := 0)
  simp [hzero]

/-- Settles O20: by the top nibble, as the decoder goes: families 0, 5, 8, 9, E and F each have their list of words that
decode to nothing, and every word of the other families decodes. -/
theorem unrecognisedWordsAreTheListed : Obligations.UnrecognisedWordsAreTheListed := by
  intro op
  have top := opTop_toNat op
  have topLt : (opTop op).toNat < 16 := (opTop op).isLt
  have low : (opN op).toNat = op.toNat % 16 := opN_toNat op
  have lowTwo : (opNN op).toNat = op.toNat % 256 := opNN_toNat op
  rw [← top, ← low, ← lowTwo]
  unfold decode
  split
  case h_1 h => simp [h, decode0_eq_none_iff]
  case h_6 h => simp only [h, lowZero_eq_none_iff]; simp
  case h_9 h => simp only [h, decode8_eq_none_iff]; simp
  case h_10 h => simp only [h, lowZero_eq_none_iff]; simp
  case h_15 h => simp only [h, decodeE_eq_none_iff]; simp
  case h_16 =>
    have h : (opTop op).toNat = 0xF := by grind
    simp only [h, decodeF_eq_none_iff]; simp
  case h_2 h | h_3 h | h_4 h | h_5 h | h_7 h | h_8 h | h_11 h | h_12 h | h_13 h | h_14 h => simp [h]

end Sys2Proof
end

section
/-! The completed instruction (spec/40_step_cycle.md R126): the state each instruction has written when it completes, the
address it goes on at, and the places it leaves as they were (spec/10_state.md R20, R23). -/

namespace Sys2Proof.Machine

/-! ### What an instruction writes and where it goes on -/

/-- The state an instruction that completes has written, before `pc` moves; `exec_completes` ties it to `exec`. -/
def State.effect (s : State) : Instr → State
  | .i00E0 => s.setScreen (Vector.replicate 32 0)
  | .i00EE => { s with sp := ⟨s.sp.val - 1, by omega⟩ }
  | .i2nnn _ => (s.push s.pc).getD s
  | .i1nnn _ | .iBnnn _ | .i3xnn _ _ | .i4xnn _ _ | .i5xy0 _ _ | .i9xy0 _ _ | .iEx9E _ | .iExA1 _ => s
  | .i6xnn x nn => s.setReg x nn
  | .i7xnn x nn => s.setReg x (s.reg x + nn)
  | .i8xy0 x y => s.setReg x (s.reg y)
  | .i8xy1 x y => s.setReg x (s.reg x ||| s.reg y)
  | .i8xy2 x y => s.setReg x (s.reg x &&& s.reg y)
  | .i8xy3 x y => s.setReg x (s.reg x ^^^ s.reg y)
  | .i8xy4 x y => s.setResultAndFlag x (s.reg x + s.reg y) (carryOut (s.reg x) (s.reg y))
  | .i8xy5 x y => s.setResultAndFlag x (s.reg x - s.reg y) (notBorrow (s.reg x) (s.reg y))
  | .i8xy6 x y => s.setResultAndFlag x (s.shiftSource x y >>> 1) (droppedRight (s.shiftSource x y))
  | .i8xy7 x y => s.setResultAndFlag x (s.reg y - s.reg x) (notBorrow (s.reg y) (s.reg x))
  | .i8xyE x y => s.setResultAndFlag x (s.shiftSource x y <<< 1) (droppedLeft (s.shiftSource x y))
  | .iAnnn nnn => s.setIndex (zextAddr nnn)
  | .iCxnn x nn => (s.setReg x (s.rnd &&& nn)).countDraw
  | .iDxyn x y n => s.drawn x y n
  | .iFx07 x => s.setReg x s.dt
  | .iFx0A x => s.setReg x (BitVec.ofNat 8 (selectKey s.cfg s.key).val)
  | .iFx15 x => s.setDelay (s.reg x)
  | .iFx18 x => s.setSound (s.reg x)
  | .iFx1E x => s.setIndex (s.I + zextByte (s.reg x))
  | .iFx29 x => s.setIndex (glyphAddr (s.reg x))
  | .iFx33 x => s.setBytes s.I.toNat (bcdDigits (s.reg x))
  | .iFx55 x => s.setBytes s.I.toNat (s.regsUpTo x)
  | .iFx65 x => s.setRegs (s.bytes s.I.toNat (x.toNat + 1))

/-- Where a skip on a condition goes on (42_skips.md R150). -/
def State.skipTarget (s : State) (c : Bool) : Word := s.pc + if c then 4 else 2

/-- The new `pc` of an instruction that completes. -/
def State.target (s : State) : Instr → Word
  | .i00EE => s.stack[s.sp.val - 1] + 2
  | .i1nnn nnn | .i2nnn nnn => zextAddr nnn
  | .iBnnn nnn => zextAddr nnn + zextByte (s.reg 0)
  | .i3xnn x nn => s.skipTarget (s.reg x == nn)
  | .i4xnn x nn => s.skipTarget (s.sneCond (s.reg x) nn)
  | .i5xy0 x y => s.skipTarget (s.reg x == s.reg y)
  | .i9xy0 x y => s.skipTarget (s.reg x != s.reg y)
  | .iEx9E x => s.skipTarget ((keyNumber (s.reg x)).any fun k => s.key[k])
  | .iExA1 x => s.skipTarget ((keyNumber (s.reg x)).any fun k => !s.key[k])
  | _ => s.pc + 2

theorem State.effect_i2nnn (s : State) (nnn : Addr12) (h : s.sp.val < 16) :
    s.effect (.i2nnn nnn) = { s with stack := s.stack.set s.sp.val s.pc h, sp := ⟨s.sp.val + 1, by omega⟩ } := by
  rw [State.effect, s.push_some s.pc h, Option.getD_some]

/-- An answer has one next state. -/
theorem eq_of_next {a : Answer} {t u : State} (ht : a = .next t) (hu : a = .next u) : t = u :=
  Host.Outcome.next.inj (ht.symm.trans hu)

/-- The only instruction that blocks, in the states in which it does (40_step_cycle.md R127). -/
def Blocks (s : State) (i : Instr) : Prop := (∃ x, i = .iFx0A x) ∧ ∀ k : Fin 16, s.key[k] = false

/-- An instruction that neither faults nor blocks completes: it has written `effect` and goes on at `target`. -/
theorem exec_completes {i : Instr} {s : State} (hf : faultOf s i = none) (hb : ¬ Blocks s i) :
    exec i s = (s.effect i).jump (s.target i) := by
  cases i with
  | i00E0 | i1nnn | i6xnn | i7xnn | i8xy0 | i8xy1 | i8xy2 | i8xy3 | i8xy4 | i8xy5 | i8xy6 | i8xy7 | i8xyE | iAnnn
  | iBnnn | iCxnn | iFx07 | iFx15 | iFx18 | iFx1E | iFx29 => rfl
  | i3xnn | i4xnn | i5xy0 | i9xy0 => exact s.skipIf_jump _
  | i00EE => exact exec00EE_pop s (s.pop_some (faultCondition_false hf))
  | i2nnn nnn =>
    have notFull : s.sp.val ≠ 16 := faultCondition_false hf
    rw [s.effect_i2nnn nnn (by omega)]
    exact exec2nnn_push s nnn (s.push_some s.pc (by omega))
  | iDxyn x y n =>
    have inside := faultCondition_false hf
    exact (execDxyn_ok s x y n (by omega)).trans (s.drawn_advance x y n)
  | iEx9E x =>
    have isKey := faultCondition_false hf
    rw [State.target, keyNumber_some (by omega)]
    exact (execEx9E_key s x (by omega)).trans (s.skipIf_jump _)
  | iExA1 x =>
    have isKey := faultCondition_false hf
    rw [State.target, keyNumber_some (by omega)]
    exact (execExA1_key s x (by omega)).trans (s.skipIf_jump _)
  | iFx0A x => exact execFx0A_key s x fun noKey => hb ⟨⟨x, rfl⟩, noKey⟩
  | iFx33 x =>
    have inside := faultCondition_false hf
    rw [exec, execFx33_ok s x (by omega), State.advance, State.setBytes_pc]
    rfl
  | iFx55 x =>
    have inside := faultCondition_false hf
    rw [exec, execFx55_ok s x (by omega), State.advance, State.setBytes_pc]
    rfl
  | iFx65 x =>
    have inside := faultCondition_false hf
    rw [exec, execFx65_ok s x (by omega), State.advance, State.setRegs_pc]
    rfl

/-- `exec_shape` with the completion written out: the fault of the table, the block, or `effect` and `target`. -/
theorem exec_endings (i : Instr) (s : State) :
    (∃ c info, faultOf s i = some (c, info) ∧ exec i s = s.raise c info) ∨
    (faultOf s i = none ∧ Blocks s i ∧ exec i s = s.block) ∨
    (faultOf s i = none ∧ ¬ Blocks s i ∧ exec i s = (s.effect i).jump (s.target i) ∧ Untouched s (s.effect i)) := by
  rcases exec_shape i s with faults | ⟨hf, hx, hk, hexec⟩ | ⟨hf, hb, u, a, hexec, untouched⟩
  · exact .inl faults
  · exact .inr (.inl ⟨hf, ⟨hx, hk⟩, hexec⟩)
  · have completes := exec_completes hf hb
    have same : (u.setPc a).setResult .ok = ((s.effect i).setPc (s.target i)).setResult .ok :=
      eq_of_next hexec completes
    have untouched' : Untouched s ((u.setPc a).setResult .ok) := untouched
    rw [same] at untouched'
    exact .inr (.inr ⟨hf, hb, completes, untouched'⟩)

/-- A completed instruction is followed by the tick (R128). -/
theorem endStep_jump (u : State) (a : Word) :
    endStep (u.jump a) = .next (((u.setPc a).setResult .ok).tick.setRndIn none) := endStep_of_ok rfl

/-! ### Frames -/

/-- New registers leave every other place alone. -/
theorem Keeps.registers (s : State) (V : Vector Byte 16) : Keeps s { s with V := V } fun p => ∃ x, p = .reg x := by
  intro p hp
  cases p with
  | reg x => exact absurd ⟨x, rfl⟩ hp
  | _ => rfl

/-- A block load writes registers that its list has a byte for, and nothing else. -/
theorem Keeps.setRegs (s : State) (bs : List Byte) :
    Keeps s (s.setRegs bs) fun p => ∃ k : Nibble, k.toNat < bs.length ∧ p = .reg k := by
  intro p hp
  cases p with
  | reg y =>
    have above : bs.length ≤ y.toNat := Nat.not_lt.1 fun below => hp ⟨y, below, rfl⟩
    have unread : bs[y.toNat]? = none := List.getElem?_eq_none above
    exact (s.reg_setRegs bs y).trans (by rw [unread, Option.getD_none])
  | _ => exact Keeps.registers s _ _ (by simp)

theorem Keeps.of_eq {s t : State} {P : Part → Prop} (h : t = s) : Keeps s t P := by
  subst h
  exact (Keeps.refl t).mono fun _ => False.elim

/-- An instruction that completes has written only places the spec lists it for (10_state.md R20, R23). -/
theorem State.effect_keeps {i : Instr} {s : State} (hf : faultOf s i = none) :
    Keeps s (s.effect i) (mayWrite i) := by
  cases i with
  | i1nnn | iBnnn | i3xnn | i4xnn | i5xy0 | i9xy0 | iEx9E | iExA1 => exact .of_eq rfl
  | i6xnn | i7xnn | i8xy0 | i8xy1 | i8xy2 | i8xy3 | iFx07 | iFx0A =>
    exact (Keeps.setReg s _ _).mono fun p hp => hp ▸ rfl
  | i8xy4 | i8xy5 | i8xy6 | i8xy7 | i8xyE =>
    refine (Keeps.setResultAndFlag s _ _ _).mono ?_
    rintro p (rfl | rfl)
    · exact .inl rfl
    · exact .inr rfl
  | iAnnn nnn => exact (Keeps.setIndex s _).mono fun p hp => hp ▸ .inl ⟨nnn, rfl⟩
  | iFx1E x => exact (Keeps.setIndex s _).mono fun p hp => hp ▸ .inr (.inl ⟨x, rfl⟩)
  | iFx29 x => exact (Keeps.setIndex s _).mono fun p hp => hp ▸ .inr (.inr ⟨x, rfl⟩)
  | iFx15 x => exact (Keeps.setDelay s _).mono fun p hp => hp ▸ ⟨x, rfl⟩
  | iFx18 x => exact (Keeps.setSound s _).mono fun p hp => hp ▸ ⟨x, rfl⟩
  | i00E0 =>
    refine (Keeps.setScreen s _).mono ?_
    rintro p (rfl | ⟨r, c, rfl⟩)
    · exact .inl rfl
    · exact .inl rfl
  | iDxyn x y n =>
    refine (Keeps.drawn s x y n).mono ?_
    rintro p (rfl | rfl | ⟨r, c, rfl⟩)
    · exact .inr ⟨x, y, n, rfl⟩
    · exact rfl
    · exact .inr ⟨x, y, n, rfl⟩
  | iCxnn x nn =>
    refine ((Keeps.setReg s x _).trans (.countDraw _)).mono ?_
    rintro p (rfl | rfl)
    · exact rfl
    · exact ⟨x, nn, rfl⟩
  | iFx33 x =>
    refine (Keeps.setBytes s _ _).mono ?_
    rintro p ⟨k, -, rfl⟩
    exact .inl ⟨x, rfl⟩
  | iFx55 x =>
    refine (Keeps.setBytes s _ _).mono ?_
    rintro p ⟨k, -, rfl⟩
    exact .inr ⟨x, rfl⟩
  | iFx65 x =>
    refine (Keeps.setRegs s _).mono ?_
    rintro p ⟨k, hk, rfl⟩
    rw [State.bytes_length] at hk
    exact Nat.lt_succ_iff.1 hk
  | i00EE =>
    obtain ⟨t, hpop, -, frame⟩ := s.exists_pop (faultCondition_false hf)
    rw [s.pop_some (faultCondition_false hf)] at hpop
    cases hpop
    exact frame.mono fun p hp => hp ▸ .inl rfl
  | i2nnn nnn =>
    have notFull : s.sp.val ≠ 16 := faultCondition_false hf
    obtain ⟨t, hpush, -, -, frame⟩ := s.exists_push s.pc (by omega)
    rw [State.effect, hpush, Option.getD_some]
    refine frame.mono ?_
    rintro p (rfl | rfl)
    · exact ⟨nnn, rfl⟩
    · exact .inr ⟨nnn, rfl⟩

/-- Only the instructions of the column "raised by" have a fault in the table (60_exceptions.md R241, R242). -/
theorem canFault_of_faultOf {s : State} {i : Instr} {f : Cause × Word} (h : faultOf s i = some f) : canFault i := by
  cases i with
  | i00EE | i2nnn | iDxyn | iFx33 | iFx55 | iFx65 | iEx9E | iExA1 => simp [canFault]
  | _ => cases h

/-- Settles O52: a fault entry writes the fault registers, which the instruction must be listed for; a block writes the
result; a completion writes `effect`, `pc` and the result. -/
theorem onlyListedWritersChangeAPlace : Obligations.OnlyListedWritersChangeAPlace := by
  intro i s t p hexec
  suffices frame : Keeps s t (mayWrite i) from frame p
  rcases exec_endings i s with ⟨c, info, hf, he⟩ | ⟨-, -, he⟩ | ⟨hf, -, he, -⟩
  · obtain rfl := eq_of_next hexec he
    have listed := canFault_of_faultOf hf
    obtain ⟨-, -, -, -, -, frame⟩ := faultTaken_raise s c info
    refine frame.mono ?_
    rintro p (rfl | rfl | rfl | rfl | rfl)
    exacts [listed, listed, listed, listed, trivial]
  · obtain rfl := eq_of_next hexec he
    exact (Keeps.setResult s _).mono fun p hp => hp ▸ trivial
  · obtain rfl := eq_of_next hexec he
    obtain ⟨-, -, frame⟩ := completed_jump (State.effect_keeps hf) (s.target i)
    refine frame.mono ?_
    rintro p (rfl | rfl | listed)
    exacts [trivial, trivial, listed]

/-- Settles O51: the three endings, each with its result. -/
theorem onlyKeyWaitBlocks : Obligations.OnlyKeyWaitBlocks := by
  intro i s
  rcases exec_endings i s with ⟨c, info, hf, he⟩ | ⟨-, hb, he⟩ | ⟨-, hb, he, -⟩
  · refine ⟨_, he, iff_of_false (by simp) ?_, .inr (.inr ⟨c, info, rfl⟩)⟩
    rintro ⟨⟨x, rfl⟩, -⟩
    cases hf
  · exact ⟨_, he, iff_of_true rfl hb, .inr (.inl rfl)⟩
  · exact ⟨_, he, iff_of_false (by simp) hb, .inl rfl⟩

end Sys2Proof.Machine
end

section
/-! The invariant of the reachable states (spec/10_state.md R43): it holds at reset, and every step and every other
operation of the host keeps it. -/

namespace Sys2Proof.Machine

/-! ### At reset -/

theorem invariant_resetWith (cfg : Config) : Invariant (State.resetWith cfg) where
  memory := rfl
  pcLow := by rw [State.resetWith_pc]; decide
  slots := fun k hk => absurd hk (Nat.not_lt_zero k.val)
  causeFault := iff_of_true rfl rfl
  quiet := fun _ => ⟨rfl, rfl⟩

/-- The count of the bytes drawn, which `Reset` keeps (log 5), is not in the invariant. -/
theorem invariant_hostReset (s : State) : Invariant s.hostReset :=
  have fresh := invariant_resetWith s.cfg
  ⟨fresh.memory, fresh.pcLow, fresh.slots, fresh.causeFault, fresh.quiet⟩

/-- Settles O2: the machine's reset state is the one with the default parameters. -/
theorem invariantHoldsAtReset : Obligations.InvariantHoldsAtReset :=
  ⟨invariant_resetWith, invariant_resetWith Config.default⟩

/-! ### Where an instruction goes on -/

/-- Every stack slot in use is at most 4094. -/
def SlotsLow (s : State) : Prop := ∀ k : Fin 16, k.val < s.sp.val → s.stack[k].toNat ≤ 4094

theorem add_toNat_le {a b : Word} {m n : Nat} (ha : a.toNat ≤ m) (hb : b.toNat ≤ n) : (a + b).toNat ≤ m + n := by
  rw [BitVec.toNat_add]
  exact (Nat.mod_le _ _).trans (Nat.add_le_add ha hb)

theorem State.skipTarget_le {s : State} (hpc : s.pc.toNat ≤ 4094) (c : Bool) : (s.skipTarget c).toNat ≤ 0x10FE := by
  cases c with
  | false => exact (add_toNat_le hpc (n := 2) (by decide)).trans (by decide)
  | true => exact (add_toNat_le hpc (n := 4) (by decide)).trans (by decide)

/-- From a `pc` that can be fetched from, no instruction goes beyond 0x10FE = 0xFFF + 0xFF, the farthest Bnnn can jump:
the other addresses are 12 bits wide, at most 4 past `pc`, or 2 past a slot in use. -/
theorem State.target_le {s : State} {i : Instr} (hf : faultOf s i = none) (hpc : s.pc.toNat ≤ 4094)
    (slots : SlotsLow s) : (s.target i).toNat ≤ 0x10FE := by
  cases i with
  | i3xnn | i4xnn | i5xy0 | i9xy0 | iEx9E | iExA1 => exact State.skipTarget_le hpc _
  | i1nnn nnn | i2nnn nnn =>
    have narrow : nnn.toNat < 4096 := nnn.isLt
    rw [State.target, zextAddr_toNat]
    omega
  | iBnnn nnn =>
    have narrow : nnn.toNat < 4096 := nnn.isLt
    have byte : (s.reg 0).toNat < 256 := (s.reg 0).isLt
    rw [State.target, zextAddr_add_zextByte_toNat]
    omega
  | i00EE =>
    have notEmpty : s.sp.val ≠ 0 := faultCondition_false hf
    have slot := slots ⟨s.sp.val - 1, by omega⟩ (by simp only; omega)
    exact (add_toNat_le slot (n := 2) (by decide)).trans (by decide)
  | _ => exact (add_toNat_le hpc (n := 2) (by decide)).trans (by decide)

/-! ### What an instruction keeps -/

@[simp] theorem State.drawn_mem (s : State) (x y n : Nibble) : (s.drawn x y n).mem = s.mem := by
  rw [State.drawn, State.setFlag, State.setReg_mem, State.setScreen_mem]

@[simp] theorem State.drawn_cfg (s : State) (x y n : Nibble) : (s.drawn x y n).cfg = s.cfg := by
  rw [State.drawn, State.setFlag, State.setReg_cfg, State.setScreen_cfg]

@[simp] theorem State.drawn_stack (s : State) (x y n : Nibble) : (s.drawn x y n).stack = s.stack := by
  rw [State.drawn, State.setFlag, State.setReg_stack, State.setScreen_stack]

@[simp] theorem State.drawn_sp (s : State) (x y n : Nibble) : (s.drawn x y n).sp = s.sp := by
  rw [State.drawn, State.setFlag, State.setReg_sp, State.setScreen_sp]

/-- A completed instruction keeps memory canonical: the stores are inside the address space. -/
theorem State.effect_wf {s : State} {i : Instr} (hf : faultOf s i = none) (hm : Memory.wf s.cfg s.mem = true) :
    Memory.wf (s.effect i).cfg (s.effect i).mem = true := by
  cases i with
  | iFx33 x =>
    have inside := faultCondition_false hf
    exact s.wf_setBytes hm _ _ (by simp only [bcdDigits, List.length_cons, List.length_nil]; omega)
  | iFx55 x =>
    have inside := faultCondition_false hf
    exact s.wf_setBytes hm _ _ (by rw [State.regsUpTo_length]; omega)
  | i2nnn nnn =>
    have notFull : s.sp.val ≠ 16 := faultCondition_false hf
    rw [s.effect_i2nnn nnn (by omega)]
    exact hm
  | iFx65 | iDxyn => simpa [State.effect] using hm
  | _ => exact hm

/-- A completed instruction keeps the slots in use low: a call pushes its own address, a return frees a slot, and no other
instruction touches the stack. -/
theorem State.effect_slotsLow {s : State} {i : Instr} (hf : faultOf s i = none) (hpc : s.pc.toNat ≤ 4094)
    (slots : SlotsLow s) : SlotsLow (s.effect i) := by
  cases i with
  | i00EE => exact fun k hk => slots k (Nat.lt_of_lt_of_le hk (Nat.sub_le ..))
  | i2nnn nnn =>
    have notFull : s.sp.val ≠ 16 := faultCondition_false hf
    rw [s.effect_i2nnn nnn (by omega)]
    intro k hk
    rw [Fin.getElem_fin, Vector.getElem_set]
    split
    case isTrue => exact hpc
    case isFalse other => exact slots k (by simp only at hk; omega)
  | iFx33 | iFx55 | iFx65 | iDxyn => simpa [SlotsLow, State.effect] using slots
  | _ => exact slots

/-! ### Faults -/

/-- The causes of the table are causes of faults (60_exceptions.md R241). -/
theorem cause_ne_none_of_faultOf {s : State} {i : Instr} {c : Cause} {info : Word} (h : faultOf s i = some (c, info)) :
    c ≠ .none := by
  cases i with
  | i00EE | i2nnn | iDxyn | iFx33 | iFx55 | iFx65 | iEx9E | iExA1 =>
    rw [faultOf] at h
    split at h
    case isTrue => cases h; simp
    case isFalse => cases h
  | _ => cases h

/-- A fault entry writes the fault registers alone, so that it keeps the invariant. -/
theorem Invariant.latch {s : State} (hs : Invariant s) {c : Cause} (hc : c ≠ .none) (info : Word) :
    Invariant (s.latch c info) where
  memory := hs.memory
  pcLow := hs.pcLow
  slots := hs.slots
  causeFault := iff_of_false hc (by simp)
  quiet := fun running => by cases running

/-! ### Places the invariant says nothing of -/

/-- The invariant speaks of memory, `pc`, the stack and the fault registers, and of nothing a step writes beside them. -/
theorem Invariant.setResult {s : State} (hs : Invariant s) (r : StepResult) : Invariant (s.setResult r) :=
  ⟨hs.memory, hs.pcLow, hs.slots, hs.causeFault, hs.quiet⟩

theorem Invariant.setRndIn {s : State} (hs : Invariant s) (r : Option Byte) : Invariant (s.setRndIn r) :=
  ⟨hs.memory, hs.pcLow, hs.slots, hs.causeFault, hs.quiet⟩

theorem Invariant.tick {s : State} (hs : Invariant s) : Invariant s.tick :=
  ⟨hs.memory, hs.pcLow, hs.slots, hs.causeFault, hs.quiet⟩

theorem Invariant.setKeyState {s : State} (hs : Invariant s) (k : Fin 16) (b : Bool) : Invariant (s.setKeyState k b) :=
  ⟨hs.memory, hs.pcLow, hs.slots, hs.causeFault, hs.quiet⟩

theorem Invariant.setRedraw {s : State} (hs : Invariant s) (b : Bool) : Invariant (s.setRedraw b) :=
  ⟨hs.memory, hs.pcLow, hs.slots, hs.causeFault, hs.quiet⟩

theorem Invariant.setPc {s : State} (hs : Invariant s) {a : Word} (ha : a.toNat ≤ 0x10FE) : Invariant (s.setPc a) :=
  ⟨hs.memory, ha, hs.slots, hs.causeFault, hs.quiet⟩

theorem Invariant.setBytes {s : State} (hs : Invariant s) {a : Nat} {bs : List Byte} (h : a + bs.length ≤ 4096) :
    Invariant (s.setBytes a bs) where
  memory := s.wf_setBytes hs.memory a bs h
  pcLow := by simpa using hs.pcLow
  slots := by simpa using hs.slots
  causeFault := by simpa using hs.causeFault
  quiet := by simpa using hs.quiet

/-! ### A step -/

/-- A completed instruction keeps the invariant. -/
theorem Invariant.completes {s : State} (hs : Invariant s) {i : Instr} (hf : faultOf s i = none)
    (hpc : s.pc.toNat ≤ 4094) (untouched : Untouched s (s.effect i)) :
    Invariant (((s.effect i).setPc (s.target i)).setResult .ok) := by
  obtain ⟨fault, cause, epc, einfo, -⟩ := untouched
  exact {
    memory := State.effect_wf hf hs.memory
    pcLow := State.target_le hf hpc hs.slots
    slots := State.effect_slotsLow hf hpc hs.slots
    causeFault := by simpa [fault, cause] using hs.causeFault
    quiet := by simpa [fault, epc, einfo] using hs.quiet }

/-- A step that runs an instruction keeps the invariant, however the instruction ends (40_step_cycle.md R126 to R128). -/
theorem Invariant.execStep {s t : State} (hs : Invariant s) (hpc : s.pc.toNat ≤ 4094) {i : Instr}
    (h : endStep (exec i s) = .next t) : Invariant t := by
  rcases exec_endings i s with ⟨c, info, hf, he⟩ | ⟨-, -, he⟩ | ⟨hf, -, he, untouched⟩
  · rw [he, endStep_raise] at h
    cases h
    exact ((hs.latch (cause_ne_none_of_faultOf hf) info).setResult _).setRndIn _
  · rw [he, endStep_block] at h
    cases h
    exact (hs.setResult _).setRndIn _
  · rw [he, endStep_jump] at h
    cases h
    exact (hs.completes hf hpc untouched).tick.setRndIn _

/-- Settles O3: a halted core and a failed fetch write nothing the invariant bounds, an unrecognised word is at most at
4094, and an instruction keeps the invariant however it ends. -/
theorem stepKeepsInvariant : Obligations.StepKeepsInvariant := by
  intro s t hs h
  rcases step_cases s with ⟨-, -, hstep⟩ | ⟨-, -, -, hstep⟩ | ⟨op, -, low, -, hstep⟩ | ⟨i, -, low, -, hstep⟩
  · rw [hstep] at h
    cases h
    exact (hs.setResult _).setRndIn _
  · rw [hstep, State.fetchFault, endStep_raise] at h
    cases h
    exact ((hs.latch (by simp) _).setResult _).setRndIn _
  · rw [hstep] at h
    cases h
    have next : (s.pc + 2).toNat ≤ 0x10FE :=
      (add_toNat_le (n := 2) (Nat.le_of_succ_le_succ low) (by decide)).trans (by decide)
    exact ((hs.setPc next).tick.setResult _).setRndIn _
  · exact hs.execStep (Nat.le_of_succ_le_succ low) (hstep ▸ h)

/-! ### The host's operations and its sessions -/

theorem Invariant.loadProgram {s : State} (hs : Invariant s) (bytes : List Byte) :
    Invariant (s.loadProgram bytes).2 := by
  unfold State.loadProgram
  split
  case isTrue => exact hs
  case isFalse fits => exact hs.setBytes (by unfold progMax at fits; unfold progBase; omega)

theorem Invariant.hostSetKey {s : State} (hs : Invariant s) (index : Byte) (pressed : Bool) :
    Invariant (s.hostSetKey index pressed) := by
  unfold State.hostSetKey
  split
  case h_1 k _ => exact hs.setKeyState k pressed
  case h_2 => exact hs

theorem Invariant.apply {s t : State} (hs : Invariant s) {op : HostOp} (h : op.apply s = .next t) : Invariant t := by
  cases op with
  | reset => cases h; exact invariant_hostReset s
  | loadProgram bytes => cases h; exact hs.loadProgram bytes
  | setKey index pressed => cases h; exact hs.hostSetKey index pressed
  | clearRedraw => cases h; exact hs.setRedraw false
  | step rnd => exact stepKeepsInvariant _ _ (hs.setRndIn _) h

/-- Settles O4: one case for each operation. -/
theorem hostOperationKeepsInvariant : Obligations.HostOperationKeepsInvariant := fun _ _ _ hs h => hs.apply h

theorem step_answers (s : State) : ∃ t r, step s = .next t ∧ t.result = some r := by
  rcases step_cases s with ⟨-, -, hstep⟩ | ⟨-, -, -, hstep⟩ | ⟨op, -, -, -, hstep⟩ | ⟨i, -, -, -, hstep⟩
  · exact ⟨_, _, hstep, rfl⟩
  · exact ⟨_, _, hstep.trans (endStep_raise s _ _), rfl⟩
  · exact ⟨_, _, hstep, rfl⟩
  · rcases exec_endings i s with ⟨c, info, -, he⟩ | ⟨-, -, he⟩ | ⟨-, -, he, -⟩
    · exact ⟨_, _, by rw [hstep, he, endStep_raise], rfl⟩
    · exact ⟨_, _, by rw [hstep, he, endStep_block], rfl⟩
    · exact ⟨_, _, by rw [hstep, he, endStep_jump], rfl⟩

/-- Settles O6: the four ways a step goes, each with its result. -/
theorem stepAlwaysAnswers : Obligations.StepAlwaysAnswers := step_answers

theorem HostOp.exists_apply (op : HostOp) (s : State) : ∃ t, op.apply s = .next t := by
  cases op with
  | step rnd =>
    obtain ⟨t, -, hstep, -⟩ := step_answers (s.setRndIn (some rnd))
    exact ⟨t, hstep⟩
  | _ => exact ⟨_, rfl⟩

theorem runOps_cons {op : HostOp} {ops : List HostOp} {s t : State} (h : op.apply s = .next t) :
    runOps (op :: ops) s = runOps ops t := by
  rw [runOps, h]

theorem Invariant.runOps {s t : State} {ops : List HostOp} (hs : Invariant s) (h : runOps ops s = .next t) :
    Invariant t := by
  induction ops generalizing s with
  | nil => cases h; exact hs
  | cons op ops ih =>
    obtain ⟨u, hop⟩ := op.exists_apply s
    rw [runOps_cons hop] at h
    exact ih (hs.apply hop) h

theorem exists_runOps (ops : List HostOp) (s : State) : ∃ t, runOps ops s = .next t := by
  induction ops generalizing s with
  | nil => exact ⟨s, rfl⟩
  | cons op ops ih =>
    obtain ⟨u, hop⟩ := op.exists_apply s
    rw [runOps_cons hop]
    exact ih u

/-- Settles O5: by induction on the operations, from the state after `Reset`. -/
theorem reachableStatesMeetInvariant : Obligations.ReachableStatesMeetInvariant := by
  refine ⟨?_, fun cfg ops => exists_runOps ops (State.resetWith cfg)⟩
  rintro s ⟨cfg, ops, h⟩
  exact (invariant_resetWith cfg).runOps h

end Sys2Proof.Machine
end

section
/-! Faults (spec/60_exceptions.md R241 to R244): which instruction and which step raises which fault, and that a fault is
precise. -/

namespace Sys2Proof.Machine

/-- An instruction with the result `Fault` has the fault of the table, and has taken it precisely. -/
theorem exec_fault {i : Instr} {s t : State} {c : Cause} {info : Word} (h : exec i s = .next t)
    (hr : t.result = some (.fault c info)) : faultOf s i = some (c, info) ∧ FaultTaken s t c info := by
  rcases exec_endings i s with ⟨c', info', hf, he⟩ | ⟨-, -, he⟩ | ⟨-, -, he, -⟩
  · obtain rfl := eq_of_next h he
    cases hr
    exact ⟨hf, faultTaken_raise s c info⟩
  · obtain rfl := eq_of_next h he
    cases hr
  · obtain rfl := eq_of_next h he
    cases hr

theorem exec_fault_iff {i : Instr} {s t : State} {c : Cause} {info : Word} (h : exec i s = .next t) :
    t.result = some (.fault c info) ↔ faultOf s i = some (c, info) := by
  refine ⟨fun hr => (exec_fault h hr).1, fun hf => ?_⟩
  obtain rfl := eq_of_next h (exec_eq_raise s hf)
  rfl

/-- What makes a step of a running core fault: the fetch, or the instruction it runs (60_exceptions.md R241). -/
def StepFaults (s : State) (c : Cause) (info : Word) : Prop :=
  (4095 < s.pc.toNat + 1 ∧ c = .fetchOob ∧ info = s.pc) ∨ ∃ i, s.nextInstr = some i ∧ faultOf s i = some (c, info)

/-- A fault that a step takes is the fault entry of `raise`, with the input byte used up. -/
theorem step_of_stepFaults {s : State} {c : Cause} {info : Word} (running : s.fault = false)
    (h : StepFaults s c info) : step s = .next (((s.setRndIn none).latch c info).setResult (.fault c info)) := by
  rcases h with ⟨high, rfl, rfl⟩ | ⟨i, hi, hf⟩
  · exact (step_fetchFault s running (State.fetch_none high)).trans (endStep_raise s _ _)
  · rw [step_exec s hi, exec_eq_raise s hf, endStep_raise]
    rfl

theorem stepFaults_of_result {s t : State} {c : Cause} {info : Word} (running : s.fault = false)
    (h : step s = .next t) (hr : t.result = some (.fault c info)) : StepFaults s c info := by
  rcases step_cases s with ⟨halted, -⟩ | ⟨-, high, -, hstep⟩ | ⟨op, -, -, -, hstep⟩ | ⟨i, -, -, hi, hstep⟩
  · rw [running] at halted
    cases halted
  · rw [hstep, State.fetchFault, endStep_raise] at h
    cases h
    cases hr
    exact .inl ⟨high, rfl, rfl⟩
  · rw [hstep] at h
    cases h
    cases hr
  · rcases exec_endings i s with ⟨c', info', hf, he⟩ | ⟨-, -, he⟩ | ⟨-, -, he, -⟩
    · rw [hstep, he, endStep_raise] at h
      cases h
      cases hr
      exact .inr ⟨i, hi, hf⟩
    · rw [hstep, he, endStep_block] at h
      cases h
      cases hr
    · rw [hstep, he, endStep_jump] at h
      cases h
      cases hr

theorem step_fault_iff {s t : State} {c : Cause} {info : Word} (running : s.fault = false) (h : step s = .next t) :
    t.result = some (.fault c info) ↔ StepFaults s c info := by
  refine ⟨stepFaults_of_result running h, fun faults => ?_⟩
  obtain rfl := eq_of_next h (step_of_stepFaults running faults)
  rfl

theorem step_faultTaken {s t : State} {c : Cause} {info : Word} (running : s.fault = false) (h : step s = .next t)
    (hr : t.result = some (.fault c info)) : FaultTaken (s.setRndIn none) t c info := by
  have faults := stepFaults_of_result running h hr
  obtain rfl := eq_of_next h (step_of_stepFaults running faults)
  exact faultTaken_raise (s.setRndIn none) c info

/-- Settles O49: an instruction's fault and a step's fault are both the fault entry of `raise`. -/
theorem faultsArePrecise : Obligations.FaultsArePrecise :=
  ⟨fun _ _ _ _ _ h hr => (exec_fault h hr).2, fun _ _ _ _ running h hr => step_faultTaken running h hr⟩

/-- What `CAUSE`, `EPC` and `EINFO` record (R241). -/
theorem FaultTaken.records {s t : State} {c : Cause} {info : Word} (h : FaultTaken s t c info) :
    t.cause = c ∧ t.epc = s.pc ∧ t.einfo = info := by
  obtain ⟨-, cause, epc, einfo, -⟩ := h
  exact ⟨cause, epc, einfo⟩

/-- Settles O50: the table for an instruction, for a step, and the values without a fault, which the invariant gives. -/
theorem faultTable : Obligations.FaultTable := by
  refine ⟨fun i s t c info h => ⟨exec_fault_iff h, fun hr => (exec_fault h hr).2.records⟩,
    fun s t c info running h => ⟨step_fault_iff running h, fun hr => (step_faultTaken running h hr).records⟩,
    fun s hs running => ⟨hs.causeFault.2 running, (hs.quiet running).2⟩, rfl, rfl, rfl, rfl, rfl, rfl⟩

end Sys2Proof.Machine
end

section
/-! The step of a decoded instruction (spec/40_step_cycle.md R120), the instruction placed at the next fetch (log 10), and
the timers over many steps. -/

namespace Sys2Proof.Machine

/-- The tick with both timers as numbers (47_timers.md R213, R214). -/
theorem State.tick_eq_toNat (s : State) :
    s.tick = { s with dt := BitVec.ofNat 8 (s.dt.toNat - 1), st := BitVec.ofNat 8 (s.st.toNat - 1) } := by
  rw [State.tick, tickDown_eq, tickDown_eq]
  rfl

theorem State.nextInstr_of_fetch {s : State} {op : Word} {i : Instr} (running : s.fault = false)
    (hop : s.fetch = some op) (hi : decode op = some i) : s.nextInstr = some i := by
  rw [State.nextInstr, running, hop]
  exact hi

/-- Settles O7: the instruction of the two bytes at `pc`, then the tick if it completed. -/
theorem stepRunsDecodedInstruction : Obligations.StepRunsDecodedInstruction := by
  intro s t i running low hdecode hexec
  rw [step_exec s (State.nextInstr_of_fetch running (s.fetch_some low) hdecode), hexec]
  split
  case isTrue hok =>
    rw [endStep_of_ok hok, State.tick_eq_toNat]
    rfl
  case isFalse hok => exact endStep_of_not_ok hok

/-! ### The placed word -/

theorem tableWord_toNat (op : Word) : tableWord 16 op.toNat = op := by
  rw [tableWord, Nat.mod_eq_of_lt op.isLt, BitVec.ofNat_toNat, BitVec.setWidth_eq]

/-- Where the word is placed the core runs, `pc` can be fetched from, and memory is as it was (log 10). -/
theorem State.fetchable_unhalt (s : State) :
    s.unhalt.fetchable.fault = false ∧ s.unhalt.fetchable.pc.toNat + 1 ≤ 4095 ∧
      s.unhalt.fetchable.cfg = s.cfg ∧ s.unhalt.fetchable.mem = s.mem := by
  have running : s.unhalt.fault = false ∧ s.unhalt.cfg = s.cfg ∧ s.unhalt.mem = s.mem := by
    unfold State.unhalt
    split
    case isTrue => exact ⟨rfl, rfl, rfl⟩
    case isFalse h => exact ⟨Bool.eq_false_iff.2 h, rfl, rfl⟩
  obtain ⟨fault, cfg, mem⟩ := running
  unfold State.fetchable
  split
  case isTrue low => exact ⟨fault, low, cfg, mem⟩
  case isFalse => exact ⟨fault, by rw [State.setPc_pc]; decide, cfg, mem⟩

/-- The next fetch reads the word written in the two bytes at `pc`. -/
theorem State.fetch_setBytes_word {s : State} (hm : Memory.wf s.cfg s.mem = true) (low : s.pc.toNat + 1 ≤ 4095)
    (op : Word) : (s.setBytes s.pc.toNat [highByte op, lowByte op]).fetch = some op := by
  have inside : s.pc.toNat + [highByte op, lowByte op].length ≤ 4096 := by
    simp only [List.length_cons, List.length_nil]
    omega
  have reads := s.byte_setBytes hm s.pc.toNat _ inside
  rw [State.fetch_some _ (by rw [State.setBytes_pc]; exact low), State.setBytes_pc, reads, reads]
  simp [wordOf_bytes]

/-- Settles O8: the word stands where the next fetch reads it, on a core that runs. -/
theorem placedWordIsExecuted : Obligations.PlacedWordIsExecuted := by
  intro s op i hm hdecode
  suffices next : (s.withFetchWord 16 op.toNat).nextInstr = some i from ⟨next, step_exec _ next⟩
  obtain ⟨running, low, cfg, mem⟩ := s.fetchable_unhalt
  rw [State.withFetchWord, tableWord_toNat, State.placeWord]
  refine State.nextInstr_of_fetch ?_ (State.fetch_setBytes_word ?_ low op) hdecode
  · rw [State.setBytes_fault, running]
  · rw [cfg, mem, hm]

/-! ### The timers over many steps -/

theorem step_after (s : State) : step s = .next s.after := by
  obtain ⟨t, -, hstep, -⟩ := step_answers s
  rw [State.after, hstep]

/-- Settles O14: by induction on the number of steps, from the decrement of the first one. -/
theorem timerAfterStepsIsInitialLessCount : Obligations.TimerAfterStepsIsInitialLessCount := by
  intro n
  induction n with
  | zero => exact fun s _ => ⟨fun _ => rfl, fun _ => rfl⟩
  | succ n ih =>
    intro s ticks
    obtain ⟨-, delay, -, sound⟩ := (timersCountCompletedSteps.1 s s.after (step_after s)).1 (ticks 0 n.succ_pos)
    obtain ⟨ihDelay, ihSound⟩ := ih s.after fun k hk => ticks (k + 1) (Nat.succ_lt_succ hk)
    refine ⟨fun noFx15 => ?_, fun noFx18 => ?_⟩
    · have first := delay fun x => noFx15 0 x n.succ_pos
      have rest := ihDelay fun k x hk => noFx15 (k + 1) x (Nat.succ_lt_succ hk)
      rw [State.afterSteps, rest, first, Nat.sub_sub, Nat.add_comm]
    · have first := sound fun x => noFx18 0 x n.succ_pos
      have rest := ihSound fun k x hk => noFx18 (k + 1) x (Nat.succ_lt_succ hk)
      rw [State.afterSteps, rest, first, Nat.sub_sub, Nat.add_comm]

/-- Settles O31: the rule of Cxnn, whose byte is the free one where the host gave none. -/
theorem freeRandomBytesAreCounted : Obligations.FreeRandomBytesAreCounted := by
  intro x nn s
  obtain ⟨t, hexec, hreg, hdraws, -⟩ := execCxnn_completes x nn s
  exact ⟨t, hexec, fun noByte => by rw [hreg, State.rnd, noByte, Option.getD_none], hdraws⟩

end Sys2Proof.Machine
end

section
/-! Memory at `I` (spec/48_index_and_memory.md R224 to R229), the bytes a fetch reads after a store, and the canonical form
of memory (log 8). -/

namespace Sys2Proof.Machine

/-! ### Stores and loads -/

theorem Completed.mono {s t : State} {pc : Word} {P Q : Part → Prop} (h : Completed s t pc P) (hPQ : ∀ p, P p → Q p) :
    Completed s t pc Q := by
  obtain ⟨hok, hpc, frame⟩ := h
  exact ⟨hok, hpc, frame.mono fun p hp => hp.imp_right (.imp_right (hPQ p))⟩

/-- Every store at `I` completes having written its block and nothing else. -/
theorem State.setBytes_advance_completes (s : State) (a : Nat) (bs : List Byte) :
    ∃ t, (s.setBytes a bs).advance = .next t ∧ (∀ b, t.byte b = (s.setBytes a bs).byte b) ∧
      Completed s t (s.pc + 2) fun p => ∃ k, k < bs.length ∧ p = .byte (a + k) := by
  rw [State.advance_eq, State.setBytes_pc]
  exact ⟨_, rfl, fun _ => rfl, completed_jump (.setBytes s a bs) _⟩

/-- Every load at `I` completes having written its registers and nothing else. -/
theorem State.setRegs_advance_completes (s : State) (bs : List Byte) :
    ∃ t, (s.setRegs bs).advance = .next t ∧ (∀ k, t.reg k = (s.setRegs bs).reg k) ∧
      Completed s t (s.pc + 2) fun p => ∃ k : Nibble, k.toNat < bs.length ∧ p = .reg k := by
  rw [State.advance_eq, State.setRegs_pc]
  refine ⟨_, rfl, fun k => ?_, completed_jump (.setRegs s bs) _⟩
  rw [State.setResult_reg, State.setPc_reg]

/-- The byte at an offset inside a block written inside the address space. -/
theorem State.byte_setBytes_offset {s : State} (hm : Memory.wf s.cfg s.mem = true) {a : Nat} {bs : List Byte}
    (inside : a + bs.length ≤ 4096) {k : Nat} {v : Byte} (hk : bs[k]? = some v) :
    (s.setBytes a bs).byte (a + k) = v := by
  rw [s.byte_setBytes hm a bs inside, if_pos (Nat.le_add_right ..), Nat.add_sub_cancel_left, hk, Option.getD_some]

theorem bcdDigits_toNat (v : Byte) :
    (bcdDigits v).map BitVec.toNat = [v.toNat / 100, v.toNat / 10 % 10, v.toNat % 10] := by
  have hv : v.toNat < 256 := v.isLt
  simp only [bcdDigits, List.map_cons, List.map_nil, BitVec.toNat_ofNat, List.cons.injEq, and_true]
  omega

/-- Settles O43: inside the bounds the store of the three digits, each in its byte; outside them the fault. -/
theorem storeDecimalDigits : Obligations.StoreDecimalDigits := by
  refine fun x s => ⟨fun inside => ?stores, fun outside => ⟨_, execFx33_fault s x outside, faultTaken_raise s _ _⟩⟩
  obtain ⟨t, hexec, bytes, done⟩ := s.setBytes_advance_completes s.I.toNat (bcdDigits (s.reg x))
  refine ⟨t, (execFx33_ok s x inside).trans hexec, fun hm => ?digits,
    done.mono fun _ ⟨k, hk, place⟩ => ⟨k, Nat.le_of_lt_succ hk, place⟩⟩
  case digits =>
    have fits : s.I.toNat + (bcdDigits (s.reg x)).length ≤ 4096 := Nat.succ_le_succ inside
    have digit (k : Nat) {v : Byte} (hk : (bcdDigits (s.reg x))[k]? = some v) : t.byte (s.I.toNat + k) = v :=
      (bytes _).trans (State.byte_setBytes_offset hm fits hk)
    have values := bcdDigits_toNat (s.reg x)
    simp only [bcdDigits, List.map_cons, List.map_nil, List.cons.injEq, and_true] at values
    have first : t.byte s.I.toNat = _ := digit 0 rfl
    rw [first, digit 1 rfl, digit 2 rfl]
    exact values

/-- Settles O44: inside the bounds the store of the registers, register k at offset k; outside them the fault. -/
theorem storeRegisters : Obligations.StoreRegisters := by
  refine fun x s => ⟨fun inside => ?stores, fun outside => ⟨_, execFx55_fault s x outside, faultTaken_raise s _ _⟩⟩
  obtain ⟨t, hexec, bytes, done⟩ := s.setBytes_advance_completes s.I.toNat (s.regsUpTo x)
  rw [State.regsUpTo_length] at done
  refine ⟨t, (execFx55_ok s x inside).trans hexec, fun hm k hk => ?registers,
    done.mono fun _ ⟨k, hk, place⟩ => ⟨k, Nat.le_of_lt_succ hk, place⟩⟩
  case registers =>
    have fits : s.I.toNat + (s.regsUpTo x).length ≤ 4096 := by rw [State.regsUpTo_length]; omega
    exact (bytes _).trans (State.byte_setBytes_offset hm fits (s.regsUpTo_getElem? x k hk))

/-- Settles O45: inside the bounds the load of the registers, register k from offset k; outside them the fault. -/
theorem loadRegisters : Obligations.LoadRegisters := by
  refine fun x s => ⟨fun inside => ?loads, fun outside => ⟨_, execFx65_fault s x outside, faultTaken_raise s _ _⟩⟩
  obtain ⟨t, hexec, regs, done⟩ := s.setRegs_advance_completes (s.bytes s.I.toNat (x.toNat + 1))
  rw [State.bytes_length] at done
  refine ⟨t, (execFx65_ok s x inside).trans hexec, fun k hk => ?registers,
    done.mono fun _ ⟨k, hk, place⟩ => ⟨k, Nat.le_of_lt_succ hk, place⟩⟩
  case registers =>
    have byte := s.bytes_getElem? s.I.toNat (x.toNat + 1) k.toNat (Nat.lt_succ_of_le hk)
    rw [regs, State.reg_setRegs, byte, Option.getD_some]

/-! ### A fetch of stored bytes -/

/-- What a store of registers that completes has done: the block is inside the address space. -/
theorem exec_iFx55_of_ok {s t : State} {x : Nibble} (h : exec (.iFx55 x) s = .next t) (hok : t.result = some .ok) :
    s.I.toNat + x.toNat ≤ 4095 := by
  have inside := faultCondition_false (faultOf_eq_none_of_ok h hok)
  omega

/-- Settles O48: both bytes of the fetch lie in the stored block. -/
theorem storedBytesAreFetched : Obligations.StoredBytesAreFetched := by
  intro x k s t u hm hexec hok hk same hpc
  have inside := exec_iFx55_of_ok hexec hok
  obtain ⟨t', hexec', stored, -⟩ := (storeRegisters x s).1 inside
  obtain rfl := eq_of_next hexec hexec'
  have next : (k + 1).toNat = k.toNat + 1 := by
    have hx : x.toNat < 16 := x.isLt
    exact (BitVec.toNat_add k 1).trans (Nat.mod_eq_of_lt (show k.toNat + 1 < 16 by omega))
  have high := stored hm k (by omega)
  have low := stored hm (k + 1) (by omega)
  rw [u.fetch_some (by omega), same, same, hpc, Nat.add_assoc, ← next, high, low]

/-! ### The canonical form (log 8) -/

/-- The first cell of a canonical memory reads as something else than its reset contents. -/
theorem Memory.read_head_ne {cfg : Config} {c : Host.Cell} {m : Memory} (hm : Memory.wf cfg (c :: m) = true) :
    Memory.read cfg (c :: m) c.1 ≠ Memory.unlisted cfg c.1 := by
  obtain ⟨-, hv, -⟩ := (Memory.wf_cons cfg).1 hm
  rw [Memory.read, Memory.find, if_pos rfl, Option.getD_some]
  exact hv

/-- Below its first cell a canonical memory reads as its reset contents. -/
theorem Memory.read_below {cfg : Config} {m : Memory} {a : Nat} (h : ∀ c ∈ m, a < c.1) :
    Memory.read cfg m a = Memory.unlisted cfg a := by
  rw [Memory.read, Memory.find_none fun c hc => (h c hc).ne', Option.getD_none]

/-- The first address of a memory that reads the same as another is not below the other's first address. -/
theorem Memory.head_le {cfg : Config} {c d : Host.Cell} {m k : Memory} (hm : Memory.wf cfg (c :: m) = true)
    (hk : Memory.wf cfg (d :: k) = true)
    (same : ∀ a, a < 4096 → Memory.read cfg (c :: m) a = Memory.read cfg (d :: k) a) : d.1 ≤ c.1 := by
  by_contra below
  obtain ⟨hc, -⟩ := (Memory.wf_cons cfg).1 hm
  obtain ⟨-, -, rising, -⟩ := (Memory.wf_cons cfg).1 hk
  refine Memory.read_head_ne hm ((same c.1 hc).trans (Memory.read_below fun e he => ?_))
  rcases List.mem_cons.1 he with rfl | he
  · omega
  · have := rising e he
    omega

/-- Canonical memories that read the same are equal: their first cells have the same address, since each reads there as
something else than its reset contents, and so the same value; the rest is the induction. -/
theorem Memory.eq_of_read_eq {cfg : Config} {m k : Memory} (hm : Memory.wf cfg m = true) (hk : Memory.wf cfg k = true)
    (same : ∀ a, a < 4096 → Memory.read cfg m a = Memory.read cfg k a) : m = k := by
  induction m generalizing k with
  | nil =>
    cases k with
    | nil => rfl
    | cons d k =>
      obtain ⟨hd, -⟩ := (Memory.wf_cons cfg).1 hk
      exact absurd (same d.1 hd).symm (Memory.read_head_ne hk)
  | cons c m ih =>
    obtain ⟨hc, -, risingM, hm'⟩ := (Memory.wf_cons cfg).1 hm
    cases k with
    | nil => exact absurd (same c.1 hc) (Memory.read_head_ne hm)
    | cons d k =>
      obtain ⟨-, -, risingK, hk'⟩ := (Memory.wf_cons cfg).1 hk
      have sameAddr : d.1 = c.1 :=
        Nat.le_antisymm (Memory.head_le hm hk same) (Memory.head_le hk hm fun a ha => (same a ha).symm)
      have sameValue : c.2 = d.2 := by simpa [Memory.read, Memory.find, sameAddr] using same c.1 hc
      obtain rfl : c = d := Prod.ext sameAddr.symm sameValue
      refine congrArg (c :: ·) (ih hm' hk' fun a ha => ?_)
      by_cases hac : c.1 = a
      · subst hac
        rw [Memory.read_below risingM, Memory.read_below risingK]
      · simpa [Memory.read, Memory.find, hac] using same a ha

/-- Settles O47: the induction of `Memory.eq_of_read_eq`. -/
theorem canonicalMemoriesAreEqual : Obligations.CanonicalMemoriesAreEqual := fun _ _ _ => Memory.eq_of_read_eq

end Sys2Proof.Machine
end

section
/-! A return after a call (spec/41_control_transfer.md), and a second draw after a first (spec/45_display.md). -/

namespace Sys2Proof.Machine

/-- A call that completes had a free slot. -/
theorem sp_lt_of_call_ok {nnn : Addr12} {s t : State} (h : exec (.i2nnn nnn) s = .next t) (hok : t.result = some .ok) :
    s.sp.val < 16 := by
  have notFull : s.sp.val ≠ 16 := faultCondition_false (faultOf_eq_none_of_ok h hok)
  omega

/-- Settles O25: the return pops the slot the call pushed, which holds the call's own address. -/
theorem returnUndoesCall : Obligations.ReturnUndoesCall := by
  intro nnn s t u hcall hok hsp stack
  have free := sp_lt_of_call_ok hcall hok
  obtain ⟨t', hcall', pushed, sp', -⟩ := (callPushesItsAddress nnn s).1 free
  obtain rfl := eq_of_next hcall hcall'
  have spU : u.sp.val = s.sp.val + 1 := (congrArg Fin.val hsp).trans sp'
  obtain ⟨v, hret, spV, hokV, pcV, -⟩ := (returnPopsAddress u).1 (by omega)
  have slot : u.stack[s.sp.val] = s.pc := (stack ⟨s.sp.val, free⟩ (by simp only; omega)).trans pushed
  refine ⟨v, hret, hokV, ?_, Fin.ext (by omega)⟩
  simp only [pcV, spU, Nat.add_sub_cancel, slot]

/-- A sprite depends on `I` and the bytes of memory alone. -/
theorem spritePixel_congr {s u : State} (hI : u.I = s.I) (bytes : ∀ a, u.byte a = s.byte a) (n x0 y0 : Nat) (r : Fin 32)
    (c : Fin 64) : spritePixel u n x0 y0 r c = spritePixel s n x0 y0 r c := by
  rw [spritePixel, spritePixel, hI, bytes]

/-- What a draw that completes does to the pixels and VF, as `Obligations.DrawSprite` states it. -/
theorem draw_of_ok {x y n : Nibble} {s t : State} (h : exec (.iDxyn x y n) s = .next t) (hok : t.result = some .ok) :
    (∀ r c, t.pixel r c =
      (s.pixel r c ^^ spritePixel s n.toNat ((s.reg x).toNat % 64) ((s.reg y).toNat % 32) r c)) ∧
    (t.reg 15#4 = 0 ∨ t.reg 15#4 = 1) ∧ (t.reg 15#4 = 1 ↔ ∃ r c, s.pixel r c = true ∧ t.pixel r c = false) := by
  have inside := faultCondition_false (faultOf_eq_none_of_ok h hok)
  obtain ⟨t', h', pixels, flagIsBit, flagIff, -⟩ := (Display.drawSprite x y n s).1 (by omega)
  obtain rfl := eq_of_next h h'
  exact ⟨pixels, flagIsBit, flagIff⟩

/-- Settles O40: both draws invert the same pixels, so that each is inverted twice; the first erases nothing where the
screen was clear under the sprite, and the second erases what the first drew. -/
theorem drawTwiceRestoresScreen : Obligations.DrawTwiceRestoresScreen := by
  intro x y n s t u v hfirst hokT hx hy hI bytes screen hsecond hokV
  obtain ⟨pixelsT, bitT, flagT⟩ := draw_of_ok hfirst hokT
  obtain ⟨pixelsV, -, flagV⟩ := draw_of_ok hsecond hokV
  simp only [hx, hy, spritePixel_congr hI bytes, screen] at pixelsV flagV
  have restored (r : Fin 32) (c : Fin 64) : v.pixel r c = s.pixel r c := by
    rw [pixelsV, pixelsT, Bool.xor_assoc, Bool.xor_self, Bool.xor_false]
  refine ⟨restored, fun clear => ⟨bitT.resolve_right fun collided => ?firstClean,
    fun ⟨r, c, drawn⟩ => flagV.2 ⟨r, c, ?wasDrawn, ?isErased⟩⟩⟩
  case firstClean =>
    obtain ⟨r, c, wasSet, erased⟩ := flagT.1 collided
    have underSprite : spritePixel s n.toNat ((s.reg x).toNat % 64) ((s.reg y).toNat % 32) r c = true := by
      simpa [pixelsT, wasSet] using erased
    rw [clear r c underSprite] at wasSet
    cases wasSet
  case wasDrawn => rw [pixelsT, drawn, clear r c drawn, Bool.false_xor]
  case isErased => rw [restored, clear r c drawn]

end Sys2Proof.Machine
end

section
/-! What an instruction does not read: the random input, but for Cxnn (spec/43_immediate_and_random.md R166), and the
outputs (spec/10_state.md R39). Two states that differ there alone end the instruction in the same way. -/

namespace Sys2Proof.Machine

theorem exec_blocks {i : Instr} {s : State} (h : Blocks s i) : exec i s = s.block := by
  obtain ⟨⟨x, rfl⟩, noKey⟩ := h
  exact execFx0A_block s x noKey

/-- Where the table and the keys give an instruction the same ending in two states, its answers agree under `p` and `q`
if each of the three endings does. -/
theorem exec_same_ending {i : Instr} {s u : State} {p q : State → State} (sameFault : faultOf u i = faultOf s i)
    (sameKeys : u.key = s.key)
    (raises : ∀ c info, mapNext p (u.raise c info) = mapNext q (s.raise c info))
    (blocks : mapNext p u.block = mapNext q s.block)
    (completes : faultOf s i = none →
      mapNext p ((u.effect i).jump (u.target i)) = mapNext q ((s.effect i).jump (s.target i))) :
    mapNext p (exec i u) = mapNext q (exec i s) := by
  rcases exec_endings i s with ⟨c, info, hf, he⟩ | ⟨-, hb, he⟩ | ⟨hf, hb, he, -⟩
  · rw [he, exec_eq_raise u (sameFault.trans hf), raises]
  · rw [he, exec_blocks ⟨hb.1, sameKeys ▸ hb.2⟩, blocks]
  · rw [he, exec_completes (sameFault.trans hf) fun hb' => hb ⟨hb'.1, sameKeys ▸ hb'.2⟩, completes hf]

theorem mapNext_id (a : Answer) : mapNext id a = a := by cases a <;> rfl

/-! ### The random input -/

/-- A state with another random input: another byte of the host, or none, and another count of the bytes drawn (log 5). -/
def State.withRandom (s : State) (r : Option Byte) (d : Nat) : State := { s with rndIn := r, draws := d }

section
variable (s : State) (r : Option Byte) (d : Nat)

theorem faultOf_withRandom (i : Instr) : faultOf (s.withRandom r d) i = faultOf s i := by cases i <;> rfl

theorem State.withRandom_setBytes (a : Nat) (bs : List Byte) :
    (s.withRandom r d).setBytes a bs = (s.setBytes a bs).withRandom r d := by
  induction bs generalizing s a with
  | nil => rfl
  | cons v bs ih => exact ih (s.setByte a v) (a + 1)

theorem State.withRandom_effect {i : Instr} (h : ∀ x nn, i ≠ .iCxnn x nn) (hf : faultOf s i = none) :
    (s.withRandom r d).effect i = (s.effect i).withRandom r d := by
  cases i with
  | iCxnn x nn => exact absurd rfl (h x nn)
  | iFx33 | iFx55 => exact s.withRandom_setBytes r d _ _
  | i2nnn nnn =>
    have notFull : s.sp.val ≠ 16 := faultCondition_false hf
    have free : s.sp.val < 16 := by omega
    rw [State.effect_i2nnn (s.withRandom r d) nnn free, s.effect_i2nnn nnn free]
    rfl
  | _ => rfl

theorem State.withRandom_target (i : Instr) : (s.withRandom r d).target i = s.target i := by cases i <;> rfl

/-- Every instruction but Cxnn passes the random input through and does the same whatever it is. -/
theorem exec_withRandom {i : Instr} (h : ∀ x nn, i ≠ .iCxnn x nn) :
    exec i (s.withRandom r d) = mapNext (State.withRandom · r d) (exec i s) := by
  rw [← mapNext_id (exec i (s.withRandom r d))]
  refine exec_same_ending (faultOf_withRandom s r d i) rfl (fun _ _ => rfl) rfl fun hf => ?_
  rw [s.withRandom_effect r d h hf, s.withRandom_target r d i]
  rfl

end

/-- At the end of a step the byte on the input is used up, so that nothing is left of it. -/
theorem endStep_withRandom (a : Answer) (r r' : Option Byte) (d : Nat) :
    endStep (mapNext (State.withRandom · r d) a) = endStep (mapNext (State.withRandom · r' d) a) := by
  cases a with
  | next t =>
    by_cases hok : t.result = some .ok
    · have ticks (r : Option Byte) := endStep_of_ok (t := t.withRandom r d) hok
      exact (ticks r).trans (ticks r').symm
    · have rests (r : Option Byte) := endStep_of_not_ok (t := t.withRandom r d) hok
      exact (rests r).trans (rests r').symm
  | fault => rfl
  | refused => rfl

/-- A step that runs no Cxnn is the same whatever byte is on the input. -/
theorem step_setRndIn {s : State} (r : Option Byte) (h : ∀ x nn, s.nextInstr ≠ some (.iCxnn x nn)) :
    step (s.setRndIn r) = step s := by
  cases hf : s.fault with
  | true => rw [step_halted s hf, step_halted (s.setRndIn r) hf]; rfl
  | false =>
    cases hop : s.fetch with
    | none => rw [step_fetchFault s hf hop, step_fetchFault (s.setRndIn r) hf hop]; rfl
    | some op =>
      cases hd : decode op with
      | none => rw [step_unrecognised s hf hop hd, step_unrecognised (s.setRndIn r) hf hop hd]; rfl
      | some i =>
        have hi := State.nextInstr_of_fetch hf hop hd
        have notCxnn (x : Nibble) (nn : Byte) : i ≠ .iCxnn x nn := fun e => h x nn (by rw [hi, e])
        calc step (s.setRndIn r)
          _ = endStep (exec i (s.withRandom r s.draws)) := step_exec (s.setRndIn r) hi
          _ = endStep (exec i (s.withRandom s.rndIn s.draws)) := by
            rw [exec_withRandom s _ _ notCxnn, exec_withRandom s _ _ notCxnn, endStep_withRandom]
          _ = step s := (step_exec s hi).symm

/-- Settles O53: the instruction by itself, and the step with a byte of the host. -/
theorem onlyCxnnReadsRandomByte : Obligations.OnlyCxnnReadsRandomByte :=
  ⟨fun _ s r d h => exec_withRandom s r d h, fun _ r h => step_setRndIn (some r) h⟩

/-! ### The outputs -/

theorem State.hideOutputs_setBytes (s : State) (a : Nat) (bs : List Byte) :
    s.hideOutputs.setBytes a bs = (s.setBytes a bs).hideOutputs := by
  induction bs generalizing s a with
  | nil => rfl
  | cons v bs ih => exact ih (s.setByte a v) (a + 1)

/-- What an instruction writes does not depend on the outputs, the outputs themselves aside. -/
theorem State.hideOutputs_effect (s : State) {i : Instr} (hf : faultOf s i = none) :
    (s.hideOutputs.effect i).hideOutputs = (s.effect i).hideOutputs := by
  cases i with
  | iFx33 | iFx55 => exact (congrArg State.hideOutputs (s.hideOutputs_setBytes _ _)).trans rfl
  | i2nnn nnn =>
    have notFull : s.sp.val ≠ 16 := faultCondition_false hf
    have free : s.sp.val < 16 := by omega
    rw [State.effect_i2nnn s.hideOutputs nnn free, s.effect_i2nnn nnn free]
    rfl
  | _ => rfl

theorem State.hideOutputs_target (s : State) (i : Instr) : s.hideOutputs.target i = s.target i := by cases i <;> rfl

/-- Settles O54: the outputs bear on none of the three endings, and wiping them after a completion leaves what the
instruction has written elsewhere. -/
theorem programsCannotSeeOutputs : Obligations.ProgramsCannotSeeOutputs := by
  intro i s
  refine exec_same_ending (by cases i <;> rfl) rfl (fun _ _ => rfl) rfl fun hf => ?_
  have same := congrArg (fun t => (t.setPc (s.target i)).hideOutputs) (s.hideOutputs_effect hf)
  rw [s.hideOutputs_target i]
  exact congrArg Host.Outcome.next same

end Sys2Proof.Machine
end

section
/-! The operations of the host (spec/60_exceptions.md R258 to R264; spec/70_reset_and_hazards.md R280, R286): the frame of
each, and a halted core. -/

namespace Sys2Proof.Machine

/-! ### Frames -/

theorem Keeps.setKeyState (s : State) (k : Fin 16) (b : Bool) : Keeps s (s.setKeyState k b) (· = .key k) := by
  intro p hp
  cases p with
  | key j =>
    have other : k.val ≠ j.val := fun hk => hp (congrArg Part.key (Fin.ext hk.symm))
    exact Vector.getElem_set_ne k.isLt j.isLt other
  | _ => rfl

theorem Keeps.setRedraw (s : State) (b : Bool) : Keeps s (s.setRedraw b) (· = .redraw) := by
  intro p hp
  cases p with
  | redraw => exact absurd rfl hp
  | _ => rfl

/-! ### Keys and the screen port -/

theorem State.hostSetKey_key (s : State) {index : Byte} (h : index.toNat < 16) (pressed : Bool) :
    s.hostSetKey index pressed = s.setKeyState ⟨index.toNat, h⟩ pressed := by
  rw [State.hostSetKey, keyNumber_some h]

theorem State.hostSetKey_ignored (s : State) {index : Byte} (h : 16 ≤ index.toNat) (pressed : Bool) :
    s.hostSetKey index pressed = s := by
  rw [State.hostSetKey, keyNumber_none h]

/-- Settles O55: an index below 16 is the number of a key, any other is none. -/
theorem setKeyWritesOneKey : Obligations.SetKeyWritesOneKey := by
  refine fun s index pressed => ⟨fun isKey => ?writes, fun noKey => ?ignored⟩
  case writes =>
    refine ⟨s.setKeyState ⟨index.toNat, isKey⟩ pressed, ?_, Vector.getElem_set_self isKey, .setKeyState s _ _⟩
    rw [HostOp.apply, s.hostSetKey_key isKey]
  case ignored => rw [HostOp.apply, s.hostSetKey_ignored noKey]

/-- Settles O56: one write of REDRAW, and the two coordinates of the port's index. -/
theorem clearRedrawAndFramebufferRead : Obligations.ClearRedrawAndFramebufferRead := by
  refine fun s => ⟨⟨_, rfl, rfl, .setRedraw s false⟩, fun a r c hr hc => ?_⟩
  have row : r = ⟨a.toNat / 64, hr ▸ r.isLt⟩ := Fin.ext hr
  have column : c = ⟨a.toNat % 64, hc ▸ c.isLt⟩ := Fin.ext hc
  rw [row, column, State.readPixel]

/-! ### Loads -/

theorem State.loadProgram_ok (s : State) {bytes : List Byte} (h : bytes.length ≤ 3584) :
    s.loadProgram bytes = (.ok, s.setBytes 0x200 bytes) := if_neg (Nat.not_lt.2 h)

theorem State.loadProgram_refused (s : State) {bytes : List Byte} (h : 3584 < bytes.length) :
    s.loadProgram bytes = (.capacityExceeded, s) := if_pos h

/-- A load changes the bytes of the program and nothing else, in every state. -/
theorem Keeps.loadProgram (s : State) (bytes : List Byte) :
    Keeps s (s.loadProgram bytes).2 fun p => ∃ k, k < bytes.length ∧ p = .byte (0x200 + k) := by
  by_cases fits : bytes.length ≤ 3584
  · rw [s.loadProgram_ok fits]
    exact .setBytes s _ _
  · rw [s.loadProgram_refused (Nat.not_le.1 fits)]
    exact .of_eq rfl

/-- Settles O57: a program that fits is written as one block, a longer one is refused whole. -/
theorem loadProgramIsAtomic : Obligations.LoadProgramIsAtomic := by
  refine fun s bytes => ⟨fun fits => ⟨?accepted, fun hm k hk => ?copied, .loadProgram s bytes⟩,
    fun tooLong => s.loadProgram_refused tooLong⟩
  case accepted => rw [s.loadProgram_ok fits]
  case copied =>
    rw [s.loadProgram_ok fits]
    exact State.byte_setBytes_offset hm (by omega) (List.getElem?_eq_getElem hk)

/-! ### A halted core -/

/-- What each operation but `Reset` may write on a halted core. -/
def haltedWrites : HostOp → Part → Prop
  | .reset, _ => True
  | .loadProgram bytes, p => ∃ k, k < bytes.length ∧ p = .byte (0x200 + k)
  | .setKey index _, p => ∃ k : Fin 16, k.val = index.toNat ∧ p = .key k
  | .clearRedraw, p => p = .redraw
  | .step _, p => p = .result ∨ p = .rndIn

theorem HostOp.apply_halted {op : HostOp} {s t : State} (halted : s.fault = true) (notReset : op ≠ .reset)
    (h : op.apply s = .next t) : Keeps s t (haltedWrites op) := by
  cases op with
  | reset => exact absurd rfl notReset
  | loadProgram bytes => cases h; exact .loadProgram s bytes
  | clearRedraw => cases h; exact .setRedraw s false
  | setKey index pressed =>
    cases h
    by_cases isKey : index.toNat < 16
    · rw [s.hostSetKey_key isKey]
      exact (Keeps.setKeyState s _ _).mono fun p hp => ⟨_, rfl, hp⟩
    · rw [s.hostSetKey_ignored (Nat.not_lt.1 isKey)]
      exact .of_eq rfl
  | step rnd =>
    have hstep : stepWith rnd s = (s.setRndIn (some rnd)).haltedStep := step_halted _ halted
    obtain rfl := eq_of_next h hstep
    refine (((Keeps.setRndIn s _).trans (.setResult _ _)).trans (.setRndIn _ none)).mono fun p hp => ?_
    unfold haltedWrites
    tauto

/-- Settles O58: the frame of each operation on a halted core, which never holds the fault registers; `Reset` clears
them. -/
theorem onlyResetEndsTheHalt : Obligations.OnlyResetEndsTheHalt := by
  refine ⟨fun op s t halted notReset h => ?_, fun s => ⟨_, rfl, rfl, rfl, rfl, rfl⟩⟩
  have frame := HostOp.apply_halted halted notReset h
  have sameFault : t.fault = s.fault := frame .fault (by cases op <;> simp_all [haltedWrites])
  refine ⟨sameFault.trans halted, frame.mono fun p hp => ?_⟩
  cases op with
  | reset => exact absurd rfl notReset
  | clearRedraw => exact .inl ⟨rfl, hp⟩
  | setKey index pressed =>
    obtain ⟨k, hk, hp⟩ := hp
    exact .inr (.inl ⟨index, pressed, k, rfl, hk, hp⟩)
  | loadProgram bytes =>
    obtain ⟨k, hk, hp⟩ := hp
    exact .inr (.inr (.inl ⟨bytes, 0x200 + k, rfl, Nat.le_add_right .., Nat.add_lt_add_left hk _, hp⟩))
  | step rnd => exact .inr (.inr (.inr ⟨rnd, rfl, hp⟩))

end Sys2Proof.Machine
end

section
/-! The signals (spec/60_exceptions.md R257, R259; spec/70_reset_and_hazards.md R281, R286): one cycle for each request,
and the cycles of a load. -/

namespace Sys2Proof.Machine

/-- Settles O60: each request alone on the pins takes its own branch of the cycle. -/
theorem signalRequestsAreOperations : Obligations.SignalRequestsAreOperations := by
  refine fun s t => ⟨fun r h => ?step, fun index pressed h => ?key, fun h => ?redraw, rfl⟩
  case step => exact congrArg (Board.did ⟨s, none⟩ · { done := true }) h
  case key => exact congrArg (Board.did ⟨s, none⟩ · {}) h
  case redraw => exact congrArg (Board.did ⟨s, none⟩ · {}) h

/-- The pins of a cycle that brings one byte of a load. -/
def Pins.ofByte (v : Byte) : Pins := { ldValid := true, ldData := v }

theorem Board.clock_ldStart (s : State) (len : Word) :
    Board.clock { ldStart := true, ldLen := len } ⟨s, none⟩ = Board.startLoad ⟨s, none⟩ len.toNat := rfl

theorem Board.clock_ofByte (s : State) (l : Load) (v : Byte) :
    Board.clock (.ofByte v) ⟨s, some l⟩ = Board.takeByte ⟨s, some l⟩ l v := rfl

theorem Board.clock_ofByte_idle (s : State) (v : Byte) : Board.clock (.ofByte v) ⟨s, none⟩ = none := rfl

theorem Board.run_cons {p : Pins} {ps : List Pins} {b c : Board} {out : Pulses} (h : Board.clock p b = some (c, out)) :
    Board.run (p :: ps) b = (Board.run ps c).map fun r => (r.1, out :: r.2) := by
  rw [Board.run, h]

/-- From a load in progress that lacks exactly the bytes of the list, the cycles that bring them perform the load of all
of its bytes, with `ld_done` in the last cycle and no pulse before. -/
theorem Board.run_rest (s : State) (len : Nat) (got : List Byte) (v : Byte) (bytes : List Byte)
    (h : got.length + (v :: bytes).length = len) :
    Board.run ((v :: bytes).map .ofByte) ⟨s, some ⟨len, got⟩⟩ =
      some (⟨(s.loadProgram (got ++ v :: bytes)).2, none⟩,
        List.replicate bytes.length ({} : Pulses) ++ [{ ldDone := true }]) := by
  induction bytes generalizing got v with
  | nil =>
    have last : Board.clock (.ofByte v) ⟨s, some ⟨len, got⟩⟩ =
        some (⟨(s.loadProgram (got ++ [v])).2, none⟩, { ldDone := true }) := if_pos h
    exact Board.run_cons last
  | cons w bytes ih =>
    have notLast : got.length + 1 ≠ len := by simp only [List.length_cons] at h; omega
    have next : Board.clock (.ofByte v) ⟨s, some ⟨len, got⟩⟩ = some (⟨s, some ⟨len, got ++ [v]⟩⟩, {}) :=
      if_neg notLast
    have rest := ih (got ++ [v]) w (by simp only [List.length_append, List.length_cons, List.length_nil] at h ⊢; omega)
    rw [List.map_cons, Board.run_cons next, rest, List.append_assoc]
    rfl

/-- Settles O59: `ld_start` begins, refuses or completes the load by its length, the bytes follow by induction, and `rst`
is looked at first. -/
theorem signalLoadIsLoadProgram : Obligations.SignalLoadIsLoadProgram := by
  refine ⟨fun s v bytes fits => ?load, fun s len tooLong => ⟨?refused, Board.clock_ofByte_idle s⟩,
    fun s => ⟨rfl, rfl⟩, fun p b hrst => ?reset⟩
  case load =>
    have len : (BitVec.ofNat 16 (v :: bytes).length).toNat = (v :: bytes).length := by
      rw [BitVec.toNat_ofNat]
      exact Nat.mod_eq_of_lt (by omega)
    have start : Board.clock { ldStart := true, ldLen := BitVec.ofNat 16 (v :: bytes).length } ⟨s, none⟩ =
        some (⟨s, some ⟨(v :: bytes).length, []⟩⟩, {}) := by
      rw [Board.clock_ldStart, len, Board.startLoad, if_neg (Nat.not_lt.2 fits), 
        if_neg (show (v :: bytes).length ≠ 0 from Nat.succ_ne_zero _)]
    have rest := Board.run_rest s _ [] v bytes (Nat.zero_add _)
    rw [Board.run_cons start]
    exact (congrArg _ rest).trans rfl
  case refused => exact if_pos tooLong
  case reset => exact if_pos hrst

end Sys2Proof.Machine
end
